-- ==== Sys2Proof/Word.lean ====
section
/-! DEFINITION. The fixed widths of presents-core (00_scope.md R7, R8). Bit i has weight 2^i in every value (R10). -/

namespace Sys2Proof

/-- A bus word, a block, a round key: 64 bits (R7 BLOCK_W and RK_W, R8 DATA_W). -/
abbrev Word := BitVec 64

/-- A word address of the register space: 12 bits (R8 ADDR_W). -/
abbrev Addr := BitVec 12

/-- A symbol code: 32 bits (R8 SYM_W). -/
abbrev Symbol := BitVec 32

/-- A nibble: 4 bits (R13). -/
abbrev Nibble := BitVec 4

end Sys2Proof
end

