-- ==== Sys2Proof/Config.lean ====
section
/-! DEFINITION. What the spec leaves open: the unspecified read values (93_implementation_defined.md U1, U2, U3). -/

namespace Sys2Proof

/-- The n-th unspecified value that a host read returns (`any value`, "a fresh draw per read": U1, U2, U3).
It has no body: no proof can see what it is. Log entry 2. -/
opaque Config.freeWord : Nat → Word

end Sys2Proof
end

