-- ==== Sys2Proof/Syntax.lean ====
section
/-! DEFINITION. The commands of presents-core, one constructor per row of spec/opcode_table.json (30_encoding.md R104). -/

namespace Sys2Proof

/-- A command. The operand of a form IDX5 command is the 5-bit value n = ARG[4:0] (R102, R103): the round counter
for KR_INJECT and KR_UPDATE, the round-key index for ADDKEY, RND_FWD and RND_INV. Every other operand is implicit. -/
inductive Instr where
  | nop
  | keyLoad
  | encrypt
  | decrypt
  | wrap
  | unwrap
  | encode
  | decode
  | alphaCommit
  | statusClr
  | srst
  | krClone
  | krRotate
  | krSubst
  | krInject (n : BitVec 5)
  | krUpdate (n : BitVec 5)
  | krExtract
  | ksRun
  | addkey (n : BitVec 5)
  | slayer
  | slayerInv
  | player
  | playerInv
  | rndFwd (n : BitVec 5)
  | rndInv (n : BitVec 5)
deriving DecidableEq, Repr

/-- The two ARG forms (R102). -/
inductive Form where
  | none
  | idx5
deriving DecidableEq, Repr

end Sys2Proof
end

