-- ==== Sys2Proof/WellFormed.lean ====
section
/-! DEFINITION. Which command words are legal (30_encoding.md R101, R102, R105), as checks on the three fields of a
word, and the fields of a command. The decoder does not use these checks: that it refuses exactly the words they
refuse is a claim. -/

namespace Sys2Proof

/-- The fields of a command word (R101). -/
structure CmdFields where
  opc : BitVec 8
  arg : BitVec 8
  rsv : BitVec 48
deriving DecidableEq, Repr

/-- The fields that stand in a command word (R101). -/
def CmdFields.ofWord (v : Word) : CmdFields :=
  { opc := v.extractLsb' 0 8, arg := v.extractLsb' 8 8, rsv := v.extractLsb' 16 48 }

/-- The ARG form of an opcode, none where the opcode is reserved (R104; the reserved ranges of R105 (b)). -/
def formOfOpc (opc : BitVec 8) : Option Form :=
  let n := opc.toNat
  if n = 0x13 ∨ n = 0x14 ∨ n = 0x20 ∨ n = 0x25 ∨ n = 0x26 then some .idx5
  else if n ≤ 0x08 ∨ n = 0x0E ∨ n = 0x0F then some .none
  else if 0x10 ≤ n ∧ n ≤ 0x16 then some .none
  else if 0x21 ≤ n ∧ n ≤ 0x24 then some .none
  else none

/-- The legal ARG values of a form (R102): 0 for NONE, ARG[7:5] = 0 for IDX5. -/
def Form.argLegal : Form → BitVec 8 → Bool
  | .none, arg => arg == 0
  | .idx5, arg => arg.extractLsb' 5 3 == 0

/-- A word's fields are well formed when none of R105 (a) to (d) holds. -/
def CmdFields.wf (f : CmdFields) : Bool :=
  f.rsv == 0 &&
    match formOfOpc f.opc with
    | some form => form.argLegal f.arg
    | none => false

/-- The form of a command (R104). -/
def Instr.form : Instr → Form
  | .krInject _ | .krUpdate _ | .addkey _ | .rndFwd _ | .rndInv _ => .idx5
  | .nop | .keyLoad | .encrypt | .decrypt | .wrap | .unwrap | .encode | .decode | .alphaCommit
  | .statusClr | .srst | .krClone | .krRotate | .krSubst | .krExtract | .ksRun
  | .slayer | .slayerInv | .player | .playerInv => .none

/-- The ARG field of a command: n zero-extended (R103), or 0. -/
def Instr.arg : Instr → BitVec 8
  | .krInject n | .krUpdate n | .addkey n | .rndFwd n | .rndInv n => n.setWidth 8
  | .nop | .keyLoad | .encrypt | .decrypt | .wrap | .unwrap | .encode | .decode | .alphaCommit
  | .statusClr | .srst | .krClone | .krRotate | .krSubst | .krExtract | .ksRun
  | .slayer | .slayerInv | .player | .playerInv => 0

/-- A command is well formed when its ARG is legal for its form (R102). The 5-bit operand type leaves no ill-formed
command: every command is well formed, and the checks above are the ones that refuse a word. -/
def Instr.wf (i : Instr) : Bool := i.form.argLegal i.arg

end Sys2Proof
end

