-- ==== Sys2Proof/Decode.lean ====
section
/-! DEFINITION. The decoder of command words (30_encoding.md R106, total) and after it the encoder (R101, R104). -/

namespace Sys2Proof

/-- The rows of form NONE of the opcode map (R104). -/
def noneRows : List (BitVec 8 × Instr) :=
  [(0x00, .nop), (0x01, .keyLoad), (0x02, .encrypt), (0x03, .decrypt), (0x04, .wrap), (0x05, .unwrap),
   (0x06, .encode), (0x07, .decode), (0x08, .alphaCommit), (0x0E, .statusClr), (0x0F, .srst)] ++
  [(0x10, .krClone), (0x11, .krRotate), (0x12, .krSubst), (0x15, .krExtract), (0x16, .ksRun)] ++
  [(0x21, .slayer), (0x22, .slayerInv), (0x23, .player), (0x24, .playerInv)]

/-- The rows of form IDX5 of the opcode map (R104): the command of an operand n. -/
def idx5Rows : List (BitVec 8 × (BitVec 5 → Instr)) :=
  [(0x13, .krInject), (0x14, .krUpdate), (0x20, .addkey), (0x25, .rndFwd), (0x26, .rndInv)]

/-- The command a word encodes, or none where the word is Illegal (R106). -/
def decode (v : Word) : Option Instr :=
  if v.extractLsb' 16 48 ≠ 0 then none
  else
    match noneRows.lookup (v.extractLsb' 0 8) with
    | some i => if v.extractLsb' 8 8 = 0 then some i else none
    | none =>
      match idx5Rows.lookup (v.extractLsb' 0 8) with
      | some f => if v.extractLsb' 13 3 = 0 then some (f (v.extractLsb' 8 5)) else none
      | none => none

/-- The OPC of a command (R104, first column). -/
def Instr.opc : Instr → BitVec 8
  | .nop => 0x00
  | .keyLoad => 0x01
  | .encrypt => 0x02
  | .decrypt => 0x03
  | .wrap => 0x04
  | .unwrap => 0x05
  | .encode => 0x06
  | .decode => 0x07
  | .alphaCommit => 0x08
  | .statusClr => 0x0E
  | .srst => 0x0F
  | .krClone => 0x10
  | .krRotate => 0x11
  | .krSubst => 0x12
  | .krInject _ => 0x13
  | .krUpdate _ => 0x14
  | .krExtract => 0x15
  | .ksRun => 0x16
  | .addkey _ => 0x20
  | .slayer => 0x21
  | .slayerInv => 0x22
  | .player => 0x23
  | .playerInv => 0x24
  | .rndFwd _ => 0x25
  | .rndInv _ => 0x26

/-- The word of a command: `v = zext_64({ARG, OPC})` (R101). -/
def encode (i : Instr) : Word := (i.arg ++ i.opc).setWidth 64

/-- The command the decoder reads from an instruction whose bits are w, of which the table gives nbits: the bits
above nbits are 0. A command is always one 64-bit word (R100), so w is that word. -/
def decodeTableWord (nbits w : Nat) : Option Instr :=
  decode (BitVec.ofNat 64 (w % 2 ^ nbits))

end Sys2Proof
end

