-- ==== Sys2Proof/Machine/Tables.lean ====
section
/-! DEFINITION. The constants of the datapath (40_tables.md; 00_scope.md R7, R8; 10_state.md R35, R55), each a named
definition so that a corrected table changes one definition (93_implementation_defined.md part 3), and the two layer
functions built on them. -/

namespace Sys2Proof.Machine

/-- The identification constant "PRESENTS" (R35). -/
def idWord : Word := 0x50524553454E5453

/-- The number of rounds (R7 NROUNDS). -/
def numRounds : Nat := 31

/-- The largest alphabet (R8 B_MAX). -/
def maxAlphabet : Nat := 256

/-- The longest string (R8 SYM_MAX). -/
def maxString : Nat := 64

/-- S[x] is the x-th entry (R140). -/
def sTable : List Nibble :=
  [0xC, 0x5, 0x6, 0xB, 0x9, 0x0, 0xA, 0xD, 0x3, 0xE, 0xF, 0x8, 0x4, 0x7, 0x1, 0x2]

/-- S⁻¹[y] is the y-th entry (R141). -/
def sInvTable : List Nibble :=
  [0x5, 0xE, 0xF, 0x8, 0xC, 0x1, 0x2, 0xD, 0xB, 0x4, 0x6, 0x3, 0x0, 0x7, 0x9, 0xA]

/-- P[i], the destination of bit i (R143, the list "In full"; the values are the spec's general knowledge, log
entry 8). -/
def pTable : List Nat :=
  [0, 16, 32, 48, 1, 17, 33, 49] ++
  [2, 18, 34, 50, 3, 19, 35, 51] ++
  [4, 20, 36, 52, 5, 21, 37, 53] ++
  [6, 22, 38, 54, 7, 23, 39, 55] ++
  [8, 24, 40, 56, 9, 25, 41, 57] ++
  [10, 26, 42, 58, 11, 27, 43, 59] ++
  [12, 28, 44, 60, 13, 29, 45, 61] ++
  [14, 30, 46, 62, 15, 31, 47, 63]

/-- P⁻¹[j], the destination of bit j under the inverse permutation (R144, the list "In full"). -/
def pInvTable : List Nat :=
  [0, 4, 8, 12, 16, 20, 24, 28] ++
  [32, 36, 40, 44, 48, 52, 56, 60] ++
  [1, 5, 9, 13, 17, 21, 25, 29] ++
  [33, 37, 41, 45, 49, 53, 57, 61] ++
  [2, 6, 10, 14, 18, 22, 26, 30] ++
  [34, 38, 42, 46, 50, 54, 58, 62] ++
  [3, 7, 11, 15, 19, 23, 27, 31] ++
  [35, 39, 43, 47, 51, 55, 59, 63]

/-- `sbox(x) = S[x]` (R145). -/
def sbox (x : Nibble) : Nibble := sTable.getD x.toNat 0

/-- `sbox_inv(y) = S⁻¹[y]` (R145). -/
def sboxInv (y : Nibble) : Nibble := sInvTable.getD y.toNat 0

/-- `slayer(x, T)[4i+3 : 4i] = T[x[4i+3 : 4i]]` for i = 0..15 (R146). -/
def slayer (x : Word) (t : Nibble → Nibble) : Word :=
  (List.range 16).foldl (fun r i => r ||| ((t (x.extractLsb' (4 * i) 4)).setWidth 64 <<< (4 * i))) 0

/-- `player(x, T)`: the OR over i = 0..63 of `zext_64(x[i]) << T[i]` (R147). -/
def player (x : Word) (t : List Nat) : Word :=
  (List.range 64).foldl (fun r i => r ||| ((x.extractLsb' i 1).setWidth 64 <<< t.getD i 0)) 0

/-- The default alphabet's code of digit value i < 62, and 0 above (R55; ASCII, log entry 19). -/
def defaultSymbol (i : Nat) : Symbol :=
  if i < 10 then BitVec.ofNat 32 (0x30 + i)
  else if i < 36 then BitVec.ofNat 32 (0x41 + (i - 10))
  else if i < 62 then BitVec.ofNat 32 (0x61 + (i - 36))
  else 0

/-- The symbol table after reset (R55). -/
def defaultAlphabet : Vector Symbol 256 := Vector.ofFn fun i => defaultSymbol i.val

end Sys2Proof.Machine
end

