-- ==== Sys2Proof/Machine/State.lean ====
section
/-! DEFINITION. The state of presents-core as plain data (10_state.md; the ports of 20_memory.md R71), the state after
reset (R55), and the reasons a step could stop. -/

namespace Sys2Proof.Machine

/-- The sequencer (R31); BUSY is STATUS.BUSY and the busy port. -/
inductive Phase where
  | idle
  | busy
deriving DecidableEq, Repr

/-- The variant of a key register (R18): V80 is the short one, V128 the long one. -/
inductive Variant where
  | v80
  | v128
deriving DecidableEq, Repr

/-- A key-register value `(var, k)` (R18): the variant and its 80 or 128 bits. The storage words of R39 are views of
it (log entry 7). -/
inductive KeyReg where
  | v80 (k : BitVec 80)
  | v128 (k : BitVec 128)
deriving DecidableEq, Repr

/-- The outcomes of a command (R311), by name. `unsupportedBlockSize` is the reserved code 2, never raised. -/
inductive ErrKind where
  | success
  | invalidKeySize
  | unsupportedBlockSize
  | duplicateSymbol
  | invalidSymbol
  | illegalCommand
  | noKey
  | noAlphabet
  | badAlphaLen
  | badSymLen
deriving DecidableEq, Repr

/-- The input ports as one rising edge of clk samples them (R71). -/
structure BusCycle where
  rst : Bool
  we : Bool
  re : Bool
  addr : Addr
  wdata : Word
deriving DecidableEq, Repr

/-- One line of the host's program (R120, R121): one cycle on the ports, or `wait`, the host's only control flow. -/
inductive HostInstr where
  | cycle (c : BusCycle)
  | wait
deriving DecidableEq, Repr

/-- The machine's state. The last four fields are the model's own (INVENTORY.md, log entries 1, 2, 5). -/
structure State where
  /-- PHASE, mirrored in STATUS.BUSY and the busy port (R31, R33, R71). -/
  phase : Phase
  /-- CUR_CMD, the command word latched at acceptance (R31, R53, R80). -/
  curCmd : Word
  /-- STATUS.DONE (R33). -/
  done : Bool
  /-- STATUS.KEY_VALID (R33). -/
  keyValid : Bool
  /-- STATUS.ALPHA_VALID (R33, R47). -/
  alphaValid : Bool
  /-- STATUS.OVR (R33, R82). -/
  ovr : Bool
  /-- STATUS.ERR (R33, R311). -/
  err : ErrKind
  /-- ERRINFO (R34). -/
  errinfo : Word
  /-- KEYLEN (R36). -/
  keylen : BitVec 8
  /-- KEY_HI (R37). -/
  keyHi : Word
  /-- KEY_LO (R37). -/
  keyLo : Word
  /-- KR with its variant STATUS.KEY_VAR (R38, R39). -/
  kr : KeyReg
  /-- WK with its variant STATUS.WK_VAR (R40, R41). -/
  wk : KeyReg
  /-- RK[0..31] (R42). -/
  rk : Vector Word 32
  /-- DIN (R43). -/
  din : Word
  /-- DOUT (R44). -/
  dout : Word
  /-- ALPHA_LEN (R46). -/
  alphaLen : BitVec 9
  /-- ALPHA[0..255] (R45). -/
  alpha : Vector Symbol 256
  /-- SYM_LEN (R49). -/
  symLen : BitVec 7
  /-- SYM[0..63] (R48). -/
  sym : Vector Symbol 64
  /-- bus_rdata: the read data, none in a cycle in which it is not valid (R71, R72; log entry 4). -/
  busRdata : Option Word
  /-- How many more host cycles pass before the completion of the command in flight (LAT; log entry 1). -/
  latLeft : Nat
  /-- The latencies of the commands still to be accepted (LAT; log entry 1). -/
  lats : List Nat
  /-- The host's program still to be issued (R120; log entry 5). -/
  script : List HostInstr
  /-- How many unspecified read values have been drawn (U1, U2, U3; log entry 2). -/
  draws : Nat
deriving DecidableEq, Repr

/-- No fault exists: "There are no traps" (60_exceptions.md), every access is total (R76, R77) and every command
completes (R84, R310), so this type has no constructor and nobody can raise one (safe). Log entry 18. -/
inductive Fault where
deriving DecidableEq, Repr

/-- The refusals. No arm of `exec` answers with one (log entry 18). -/
inductive Refusal where
  /-- An instruction without a meaning, by its mnemonic: raised by an arm of `exec` that has none yet (safe). -/
  | notModelled (mnemonic : String)
deriving DecidableEq, Repr

/-- The state right after the reset input (R55, R340): DONE is 0. The last five fields: log entries 1, 2, 4, 5. -/
def State.reset : State where
  phase := .idle
  curCmd := 0
  done := false
  keyValid := false
  alphaValid := true
  ovr := false
  err := .success
  errinfo := 0
  keylen := 0
  keyHi := 0
  keyLo := 0
  kr := .v80 0
  wk := .v80 0
  rk := Vector.replicate 32 0
  din := 0
  dout := 0
  alphaLen := 62
  alpha := defaultAlphabet
  symLen := 0
  sym := Vector.replicate 64 0
  busRdata := none
  latLeft := 0
  lats := []
  script := []
  draws := 0

end Sys2Proof.Machine
end

