-- ==== Sys2Proof/Machine/Flags.lean ====
section
/-! DEFINITION. The flags: the STATUS word with its fields (10_state.md R33, 20_memory.md R83), the error codes
(60_exceptions.md R311) and the formats of ERRINFO (R312). -/

namespace Sys2Proof.Machine

/-- The code of an outcome, STATUS bits 11:8 (R311). -/
def ErrKind.code : ErrKind → BitVec 4
  | .success => 0
  | .invalidKeySize => 1
  | .unsupportedBlockSize => 2
  | .duplicateSymbol => 3
  | .invalidSymbol => 4
  | .illegalCommand => 5
  | .noKey => 6
  | .noAlphabet => 7
  | .badAlphaLen => 8
  | .badSymLen => 9

/-- The variant of a key-register value (R18). -/
def KeyReg.variant : KeyReg → Variant
  | .v80 _ => .v80
  | .v128 _ => .v128

/-- A variant as its STATUS bit: 0 = V80, 1 = V128 (R33). -/
def Variant.bit : Variant → Bool
  | .v80 => false
  | .v128 => true

/-- STATUS.BUSY (R31, R33). -/
def State.isBusy (s : State) : Bool := s.phase == .busy

/-- The busy port: a copy of STATUS.BUSY (R71). -/
def busyPort (s : State) : Bool := s.isBusy

/-- STATUS.DONE as a read sees it: 0 while BUSY = 1 (R83). -/
def State.doneBit (s : State) : Bool := s.done && !s.isBusy

/-- STATUS.ERR as a read sees it: 0 while BUSY = 1 (R83). -/
def State.errField (s : State) : BitVec 4 := if s.isBusy then 0 else s.err.code

/-- One flag at its bit position. -/
def flagAt (n : Nat) (b : Bool) : Word := (BitVec.ofBool b).setWidth 64 <<< n

/-- The STATUS word (R33): bit 7 and bits 63:12 are 0. It is what a read returns but for the bits in the write-set of a
command in flight (`statusWriteBits`). -/
def statusWord (s : State) : Word :=
  flagAt 0 s.isBusy ||| flagAt 1 s.doneBit ||| flagAt 2 s.keyValid ||| flagAt 3 s.kr.variant.bit |||
  flagAt 4 s.wk.variant.bit ||| flagAt 5 s.alphaValid ||| flagAt 6 s.ovr |||
  (s.errField.setWidth 64 <<< 8)

/-- ERRINFO of DUPLICATE_SYMBOL: `{c[31:0], i[15:0], j[15:0]}` (R262, R312). -/
def duplicateInfo (i j : Nat) (c : Symbol) : Word :=
  c ++ BitVec.ofNat 16 i ++ BitVec.ofNat 16 j

/-- ERRINFO of INVALID_SYMBOL: `{c[31:0], 16'b0, p[15:0]}` (R272, R312). -/
def badSymbolInfo (p : Nat) (c : Symbol) : Word :=
  c ++ (0 : BitVec 16) ++ BitVec.ofNat 16 p

end Sys2Proof.Machine
end

