-- ==== Sys2Proof/Machine/Codec.lean ====
section
/-! DEFINITION. The pure functions of the integer-to-alphabet codec (44_codec.md R260 to R273). A string and an
alphabet are lists of codes in position or index order. -/

namespace Sys2Proof.Machine

/-- What the alphabet check finds (R261). -/
inductive AlphaCheck where
  | ok
  | badAlphaLen (b : BitVec 9)
  | duplicateSymbol (i j : Nat) (c : Symbol)
deriving DecidableEq, Repr

/-- The first repeated code of `rest`, its indices counted after the codes `seen` that stand before it: ascending j,
and for that j the smallest i (R261). -/
def firstDuplicate (seen : List Symbol) : List Symbol → Option (Nat × Nat × Symbol)
  | [] => none
  | c :: rest =>
    match seen.findIdx? (· == c) with
    | some i => some (i, seen.length, c)
    | none => firstDuplicate (seen ++ [c]) rest

/-- `alpha_check(b, ALPHA)` (R261). -/
def alphaCheck (b : BitVec 9) (table : Vector Symbol 256) : AlphaCheck :=
  if b.toNat < 2 ∨ maxAlphabet < b.toNat then .badAlphaLen b
  else
    match firstDuplicate [] (table.toList.take b.toNat) with
    | some (i, j, c) => .duplicateSymbol i j c
    | none => .ok

/-- The base-b digits of v by the division chain, least significant first: at least one digit, until the quotient is
0 (R266). Every 64-bit v has at most 64 digits for b ≥ 2; `fuel` bounds the chain (log entry 12). -/
def digits (b : Nat) : Nat → Nat → List Nat
  | 0, _ => []
  | fuel + 1, v => (v % b) :: (if v / b = 0 then [] else digits b fuel (v / b))

/-- `encode(n, b, ALPHA)`: the symbols of the digits (R266), for the alphabet as the list of its b codes. -/
def encodeString (alphabet : List Symbol) (n : Word) : List Symbol :=
  (digits alphabet.length maxString n.toNat).map fun d => alphabet.getD d 0

/-- `idx_of(c)` (R270). -/
def idxOf (alphabet : List Symbol) (c : Symbol) : Option Nat := alphabet.findIdx? (· == c)

/-- The first position, counted from p, whose symbol is not in the alphabet (R271). -/
def firstInvalid (alphabet : List Symbol) : Nat → List Symbol → Option (Nat × Symbol)
  | _, [] => none
  | p, c :: rest =>
    match idxOf alphabet c with
    | none => some (p, c)
    | some _ => firstInvalid alphabet (p + 1) rest

/-- The sum of `idx_of(SYM[p]) * b^p` from position p on, added to v, all modulo 2^64 (R271). -/
def positionalSum (alphabet : List Symbol) : Nat → List Symbol → Word → Word
  | _, [], v => v
  | p, c :: rest, v =>
    positionalSum alphabet (p + 1) rest
      (v + BitVec.ofNat 64 ((idxOf alphabet c).getD 0) * BitVec.ofNat 64 (alphabet.length ^ p))

/-- What decoding a string gives (R271). -/
inductive Decoded where
  | badSymLen (len : BitVec 7)
  | invalidSymbol (p : Nat) (c : Symbol)
  | value (v : Word)
deriving DecidableEq, Repr

/-- `decode(len, SYM, b, ALPHA)` (R271): the length first, then every symbol, then the value. -/
def decodeString (alphabet : List Symbol) (len : BitVec 7) (sym : Vector Symbol 64) : Decoded :=
  if len.toNat < 1 ∨ maxString < len.toNat then .badSymLen len
  else
    match firstInvalid alphabet 0 (sym.toList.take len.toNat) with
    | some (p, c) => .invalidSymbol p c
    | none => .value (positionalSum alphabet 0 (sym.toList.take len.toNat) 0)

end Sys2Proof.Machine
end

