-- ==== Sys2Proof/Machine/KeyRegister.lean ====
section
/-! DEFINITION. The pure functions of the key register (41_key_register.md R170 to R178) and its storage words
(10_state.md R39, R41). -/

namespace Sys2Proof.Machine

/-- `rotl_W(x, n) = ((x << n) | (x >> (W − n)))[W−1:0]` for 0 < n < W (R12). -/
def rotl {w : Nat} (x : BitVec w) (n : Nat) : BitVec w := (x <<< n) ||| (x >>> (w - n))

/-- Rotate: a 61-bit left rotation of the whole register (R170). -/
def krRot : KeyReg → KeyReg
  | .v80 k => .v80 (rotl k 61)
  | .v128 k => .v128 (rotl k 61)

/-- Substitute: S on the top nibble (V80) or on the top two nibbles (V128) (R171). -/
def krSub : KeyReg → KeyReg
  | .v80 k => .v80 (sbox (k.extractLsb' 76 4) ++ k.extractLsb' 0 76)
  | .v128 k => .v128 (sbox (k.extractLsb' 124 4) ++ sbox (k.extractLsb' 120 4) ++ k.extractLsb' 0 120)

/-- Inject counter: counter bit j into register bit 15 + j (V80) or 62 + j (V128) (R172). -/
def krInj (w : KeyReg) (ctr : BitVec 5) : KeyReg :=
  match w with
  | .v80 k => .v80 (k ^^^ (ctr.setWidth 80 <<< 15))
  | .v128 k => .v128 (k ^^^ (ctr.setWidth 128 <<< 62))

/-- Extract: the top 64 bits (R173). -/
def krTop : KeyReg → Word
  | .v80 k => k.extractLsb' 16 64
  | .v128 k => k.extractLsb' 64 64

/-- Update: rotate, then substitute, then inject r (R174). -/
def krUpd (w : KeyReg) (r : BitVec 5) : KeyReg := krInj (krSub (krRot w)) r

/-- The high storage word, WK_HI's view (R39, R41): `k[79:16]` or `k[127:64]`. -/
def KeyReg.hiWord : KeyReg → Word
  | .v80 k => k.extractLsb' 16 64
  | .v128 k => k.extractLsb' 64 64

/-- The low storage word, WK_LO's view (R39, R41): `{k[15:0], 48'b0}` or `k[63:0]`. -/
def KeyReg.loWord : KeyReg → Word
  | .v80 k => k.extractLsb' 0 16 ++ (0 : BitVec 48)
  | .v128 k => k.extractLsb' 0 64

/-- `key_from_bytes(len, hi, lo)`: none is InvalidKeySize(len) (R175). -/
def keyFromBytes (len : BitVec 8) (hi lo : Word) : Option KeyReg :=
  if len = 10 then some (.v80 (hi ++ lo.extractLsb' 48 16))
  else if len = 16 then some (.v128 (hi ++ lo))
  else none

/-- The register after r updates of one continuous walk from w, with counters 1, 2, …, r (R177). -/
def krWalk (w : KeyReg) : Nat → KeyReg
  | 0 => w
  | r + 1 => krUpd (krWalk w r) (BitVec.ofNat 5 (r + 1))

/-- What the schedule gives: the 32 round keys and the final register (R177). -/
structure Schedule where
  rk : Vector Word 32
  last : KeyReg
deriving DecidableEq, Repr

/-- `schedule(var, k)`: round key r is the top of the register after r updates; the final register is the one after
the 31st (R177). It reads a copy: the argument is not changed (R178). -/
def schedule (w : KeyReg) : Schedule :=
  { rk := Vector.ofFn fun r => krTop (krWalk w r.val), last := krWalk w numRounds }

end Sys2Proof.Machine
end

