-- ==== Sys2Proof/Machine/Operands.lean ====
section
/-! DEFINITION. The operands: the register map with its access rights (10_state.md R32), what a register holds, the
fields a write keeps (20_memory.md R77), and the implicit operands of the commands (30_encoding.md R103). -/

namespace Sys2Proof.Machine

/-- The registers of the map (R32). -/
inductive Reg where
  | id
  | status
  | cmd
  | errinfo
  | keylen
  | keyHi
  | keyLo
  | din
  | dout
  | alphaLen
  | symLen
  | wkHi
  | wkLo
  | rk (i : Fin 32)
  | alpha (i : Fin 256)
  | sym (p : Fin 64)
deriving DecidableEq, Repr

/-- Access rights (R32). -/
inductive Access where
  | ro
  | rw
  | wo
deriving DecidableEq, Repr

/-- The register at a word address, none where the address is unmapped (R32, R76). -/
def regAt (a : Addr) : Option Reg :=
  if h : 0x020 ≤ a.toNat ∧ a.toNat < 0x040 then some (.rk ⟨a.toNat - 0x020, by omega⟩)
  else if h : 0x100 ≤ a.toNat ∧ a.toNat < 0x200 then some (.alpha ⟨a.toNat - 0x100, by omega⟩)
  else if h : 0x200 ≤ a.toNat ∧ a.toNat < 0x240 then some (.sym ⟨a.toNat - 0x200, by omega⟩)
  else
    [(0x000#12, Reg.id), (0x001#12, .status), (0x002#12, .cmd), (0x003#12, .errinfo), (0x004#12, .keylen),
     (0x005#12, .keyHi), (0x006#12, .keyLo), (0x007#12, .din), (0x008#12, .dout), (0x009#12, .alphaLen),
     (0x00A#12, .symLen), (0x00C#12, .wkHi), (0x00D#12, .wkLo)].lookup a

/-- The word address of a register (R32). -/
def Reg.addr : Reg → Addr
  | .id => 0x000
  | .status => 0x001
  | .cmd => 0x002
  | .errinfo => 0x003
  | .keylen => 0x004
  | .keyHi => 0x005
  | .keyLo => 0x006
  | .din => 0x007
  | .dout => 0x008
  | .alphaLen => 0x009
  | .symLen => 0x00A
  | .wkHi => 0x00C
  | .wkLo => 0x00D
  | .rk i => 0x020 + BitVec.ofNat 12 i.val
  | .alpha i => 0x100 + BitVec.ofNat 12 i.val
  | .sym p => 0x200 + BitVec.ofNat 12 p.val

/-- The access right of a register (R32). -/
def Reg.access : Reg → Access
  | .id | .status | .errinfo | .dout | .wkHi | .wkLo | .rk _ => .ro
  | .keylen | .keyHi | .keyLo | .din | .alphaLen | .symLen | .alpha _ | .sym _ => .rw
  | .cmd => .wo

/-- What a read of a register returns where it is not unspecified: the stored value, zero above its field; CMD reads
0 (R77); STATUS and ERRINFO as R83 says while BUSY = 1. -/
def readReg (s : State) : Reg → Word
  | .id => idWord
  | .status => statusWord s
  | .cmd => 0
  | .errinfo => if s.isBusy then 0 else s.errinfo
  | .keylen => s.keylen.setWidth 64
  | .keyHi => s.keyHi
  | .keyLo => s.keyLo
  | .din => s.din
  | .dout => s.dout
  | .alphaLen => s.alphaLen.setWidth 64
  | .symLen => s.symLen.setWidth 64
  | .wkHi => s.wk.hiWord
  | .wkLo => s.wk.loWord
  | .rk i => s.rk[i]
  | .alpha i => s.alpha[i].setWidth 64
  | .sym p => s.sym[p].setWidth 64

/-- What the word at an address reads as where it is not unspecified: an unmapped address reads 0 (R76). -/
def readWord (s : State) (a : Addr) : Word :=
  match regAt a with
  | some r => readReg s r
  | none => 0

/-- Store the field bits of v in an RW register (R81); a write to ALPHA_LEN or ALPHA[i] clears ALPHA_VALID (R47).
No other register is stored to (R77). -/
def storeReg (s : State) (v : Word) : Reg → State
  | .keylen => { s with keylen := v.setWidth 8 }
  | .keyHi => { s with keyHi := v }
  | .keyLo => { s with keyLo := v }
  | .din => { s with din := v }
  | .alphaLen => { s with alphaLen := v.setWidth 9, alphaValid := false }
  | .symLen => { s with symLen := v.setWidth 7 }
  | .alpha i => { s with alpha := s.alpha.set i (v.setWidth 32), alphaValid := false }
  | .sym p => { s with sym := s.sym.set p (v.setWidth 32) }
  | .id | .status | .cmd | .errinfo | .dout | .wkHi | .wkLo | .rk _ => s

/-- The round key the operand n selects (R103). -/
def roundKey (s : State) (n : BitVec 5) : Word := s.rk[n.toNat]

/-- The alphabet: the first ALPHA_LEN entries of ALPHA, no other is read (R45). -/
def State.alphabet (s : State) : List Symbol := s.alpha.toList.take s.alphaLen.toNat

end Sys2Proof.Machine
end

