-- ==== Sys2Proof/Machine/Round.lean ====
section
/-! DEFINITION. The pure functions of the round (42_round_function.md R210 to R212) and of the 31-round cipher
(43_block_cipher.md R240, R242). -/

namespace Sys2Proof.Machine

/-- `combine(x, k) = x ^ k` (R210). -/
def combine (x k : Word) : Word := x ^^^ k

/-- `round_fwd(x, k) = player(slayer(combine(x, k), S), P)` (R211). -/
def roundFwd (x k : Word) : Word := player (slayer (combine x k) sbox) pTable

/-- `round_inv(x, k) = combine(slayer(player(x, P⁻¹), S⁻¹), k)` (R212). -/
def roundInv (x k : Word) : Word := combine (slayer (player x pInvTable) sboxInv) k

/-- Encrypt: rounds i = 0..30 with rk[i], then one combine with rk[31] (R240). -/
def encryptWith (rk : Vector Word 32) (x : Word) : Word :=
  combine ((rk.toList.take numRounds).foldl roundFwd x) rk[31]

/-- Decrypt: combine with rk[31], then inverse rounds i = 30 down to 0 with rk[i] (R242). -/
def decryptWith (rk : Vector Word 32) (y : Word) : Word :=
  (rk.toList.take numRounds).foldr (fun k st => roundInv st k) (combine y rk[31])

end Sys2Proof.Machine
end

