-- ==== Sys2Proof/Machine/Ops.lean ====
section
/-! DEFINITION. The shared operations: acceptance and completion of a command (20_memory.md R80, R84), taking an error
(00_scope.md R16, 60_exceptions.md R314), the checks commands share, the register updates commands share, and reset
(10_state.md R55). There is no trap entry and no return (60_exceptions.md R318, R319): an error is an outcome of its
command, and this file's `complete` is where it lands. -/

namespace Sys2Proof.Machine

/-- What a command's pseudocode gives: its writes, or `raise E(info)` (R16). -/
inductive CmdResult where
  | ok (s : State)
  | error (e : ErrKind) (info : Word)
deriving DecidableEq, Repr

/-- Acceptance of the word v (R80). The latency of the command is the next of `lats` (log entry 1). -/
def accept (v : Word) (s : State) : State :=
  { s with
    curCmd := v, phase := .busy, done := false, err := .success, errinfo := 0,
    latLeft := s.lats.headD 0, lats := s.lats.tail }

/-- Completion of a command that succeeds (R84): its writes stand in s. -/
def completeOk (s : State) : State :=
  { s with phase := .idle, done := true, err := .success, errinfo := 0 }

/-- Taking an error (R16, R314): only ERR, ERRINFO and the completion fields are written. -/
def completeError (s : State) (e : ErrKind) (info : Word) : State :=
  { s with phase := .idle, done := true, err := e, errinfo := info }

/-- Completion (R84). An error discards every write of the command (R16). -/
def complete (s : State) : CmdResult → State
  | .ok t => completeOk t
  | .error e info => completeError s e info

/-- `if STATUS.KEY_VALID = 0 then raise NO_KEY(0)`. -/
def requireKey (s : State) (k : CmdResult) : CmdResult :=
  if s.keyValid then k else .error .noKey 0

/-- `if STATUS.ALPHA_VALID = 0 then raise NO_ALPHABET(0)`. -/
def requireAlphabet (s : State) (k : CmdResult) : CmdResult :=
  if s.alphaValid then k else .error .noAlphabet 0

/-- What an Illegal word raises: ILLEGAL_COMMAND(v) (R105). -/
def illegalCommand (v : Word) : CmdResult := .error .illegalCommand v

/-- `DOUT <- v`. -/
def putDout (s : State) (v : Word) : State := { s with dout := v }

/-- `WK <- w` with its variant. -/
def putWk (s : State) (w : KeyReg) : State := { s with wk := w }

/-- RK[0..31], WK and WK_VAR take a schedule's results (R190, R241). -/
def putSchedule (s : State) (sch : Schedule) : State := { s with rk := sch.rk, wk := sch.last }

/-- `for p in 0..L-1: SYM[p] <- sym[p]`, `SYM_LEN <- L`; SYM[p] for p ≥ L keeps its value (R267). -/
def putString (s : State) (str : List Symbol) : State :=
  { s with
    sym := Vector.ofFn fun p : Fin 64 => (str[p.val]?).getD s.sym[p]
    symLen := BitVec.ofNat 7 str.length }

/-- The value of a decoded string goes on to `k`; a failed decode raises (R272, R294). -/
def withDecoded (d : Decoded) (k : Word → CmdResult) : CmdResult :=
  match d with
  | .badSymLen n => .error .badSymLen (n.setWidth 64)
  | .invalidSymbol p c => .error .invalidSymbol (badSymbolInfo p c)
  | .value v => k v

/-- Every register and field at its reset value (R55); the model's own fields and the read port are not the core's
registers and stay (log entry 10). -/
def resetRegs (s : State) : State :=
  { State.reset with busRdata := s.busRdata, lats := s.lats, script := s.script, draws := s.draws }

end Sys2Proof.Machine
end

