-- ==== Sys2Proof/Machine/Bus.lean ====
section
/-! DEFINITION. The bus: one host step (20_memory.md R71 to R83), the reset input (70_reset_and_hazards.md R340, R341),
and the write-set of each command, which R83 makes unspecified while the command is in flight. -/

namespace Sys2Proof.Machine

/-- The registers of the map that a command may write, as its rule lists them ("Writes"). STATUS is not among
them: R83 says what it reads as, bit by bit (`statusWriteBits`). ENCODE's and WRAP's set is all of SYM (R267, R291).
SRST: every register except ID and CMD (R300; ERRINFO: log entry 3). -/
def inWriteSet (i : Instr) (r : Reg) : Bool :=
  match i, r with
  | .krClone, .wkHi | .krClone, .wkLo => true
  | .krRotate, .wkHi | .krRotate, .wkLo => true
  | .krSubst, .wkHi | .krSubst, .wkLo => true
  | .krInject _, .wkHi | .krInject _, .wkLo => true
  | .krUpdate _, .wkHi | .krUpdate _, .wkLo => true
  | .ksRun, .rk _ | .ksRun, .wkHi | .ksRun, .wkLo => true
  | .encrypt, .dout | .encrypt, .rk _ | .encrypt, .wkHi | .encrypt, .wkLo => true
  | .decrypt, .dout | .decrypt, .rk _ | .decrypt, .wkHi | .decrypt, .wkLo => true
  | .wrap, .dout | .wrap, .rk _ | .wrap, .wkHi | .wrap, .wkLo => true
  | .wrap, .sym _ | .wrap, .symLen => true
  | .unwrap, .dout | .unwrap, .rk _ | .unwrap, .wkHi | .unwrap, .wkLo => true
  | .encode, .sym _ | .encode, .symLen => true
  | .decode, .dout | .krExtract, .dout | .addkey _, .dout => true
  | .slayer, .dout | .slayerInv, .dout | .player, .dout | .playerInv, .dout => true
  | .rndFwd _, .dout | .rndInv _, .dout => true
  | .srst, .id | .srst, .cmd | .srst, .status => false
  | .srst, _ => true
  | _, _ => false

/-- The STATUS bits in the write-set of a command of which R83's STATUS clause gives no value: KEY_VAR (bit 3) for
KEY_LOAD (R176), WK_VAR (bit 4) for the commands that write it (R180, R190, R241, R245, R291, R294). None for SRST:
R300 leaves STATUS out of what its BUSY makes unspecified (log entry 21). -/
def statusWriteBits : Instr → Word
  | .keyLoad => flagAt 3 true
  | .krClone | .ksRun | .encrypt | .decrypt | .wrap | .unwrap => flagAt 4 true
  | .nop | .encode | .decode | .alphaCommit | .statusClr | .srst
  | .krRotate | .krSubst | .krInject _ | .krUpdate _ | .krExtract | .addkey _
  | .slayer | .slayerInv | .player | .playerInv | .rndFwd _ | .rndInv _ => 0

/-- The bits of a register in the write-set of a command: of STATUS the bits above, of any other register all or none. -/
def writeBits (i : Instr) : Reg → Word
  | .status => statusWriteBits i
  | r => if inWriteSet i r then BitVec.allOnes 64 else 0

/-- The bits of a read that are unspecified: while BUSY = 1, those in the write-set of the command in flight (R83, U1).
An Illegal word writes none (R105), and no command writes an unmapped address. -/
def unspecifiedBits (s : State) (a : Addr) : Word :=
  if s.isBusy then
    match regAt a, decode s.curCmd with
    | some r, some i => writeBits i r
    | _, _ => 0
  else 0

/-- A read that returns an unspecified value: a fresh draw (U1, U2, U3). -/
def drawRead (s : State) : State :=
  { s with busRdata := some (Config.freeWord s.draws), draws := s.draws + 1 }

/-- The word w with its bits under the mask m from a fresh draw (U1). -/
def drawBits (s : State) (m w : Word) : State :=
  { s with busRdata := some ((w &&& ~~~m) ||| (Config.freeWord s.draws &&& m)), draws := s.draws + 1 }

/-- A cycle with bus_re = 1 (R72, R83): only the read port sees it, no register changes (R78). -/
def readCycle (s : State) (a : Addr) : State :=
  if unspecifiedBits s a = 0 then { s with busRdata := some (readWord s a) }
  else drawBits s (unspecifiedBits s a) (readWord s a)

/-- A dropped write (R82). -/
def dropWrite (s : State) : State := { s with ovr := true }

/-- What a write does to the registers: nothing at an unmapped address (R76) or an RO register (R77); at CMD or an RW
register it is dropped while BUSY = 1 (R82); a CMD write is accepted (R80) and an RW register stores (R81) otherwise. -/
def writeReg (s : State) (a : Addr) (v : Word) : State :=
  match regAt a with
  | none => s
  | some r =>
    match r.access with
    | .ro => s
    | .rw => if s.isBusy then dropWrite s else storeReg s v r
    | .wo => if s.isBusy then dropWrite s else accept v s

/-- A cycle with bus_we = 1 (R72); bus_rdata is not valid after it. -/
def writeCycle (s : State) (a : Addr) (v : Word) : State :=
  { writeReg s a v with busRdata := none }

/-- A cycle with rst = 1 (R340, R341): every register takes its reset value, the access is ignored, a command in
flight is abandoned, and a read returns unspecified data (U3). -/
def resetCycle (s : State) (re : Bool) : State :=
  if re then drawRead (resetRegs s) else { resetRegs s with busRdata := none }

/-- One host cycle has passed for the command in flight (log entry 1). -/
def tick (s : State) : State := { s with latLeft := s.latLeft - 1 }

/-- One bus cycle: rst first (R340); both strobes do nothing and the read data is unspecified (R72, U2). -/
def busCycle (c : BusCycle) (s : State) : State :=
  let t := tick s
  if c.rst then resetCycle t c.re
  else if c.we && c.re then drawRead t
  else if c.re then readCycle t c.addr
  else if c.we then writeCycle t c.addr c.wdata
  else { t with busRdata := none }

/-- A cycle with no strobe. -/
def idleCycle : BusCycle := { rst := false, we := false, re := false, addr := 0, wdata := 0 }

/-- `rd <loc>`: `(R, addr)` (R120). -/
def rdCycle (a : Addr) : BusCycle := { idleCycle with re := true, addr := a }

/-- `wr <loc>, <imm>`: `(W, addr, imm)` (R120). -/
def wrCycle (a : Addr) (v : Word) : BusCycle := { idleCycle with we := true, addr := a, wdata := v }

/-- The value the host read has BUSY = 0: bit 0 of it is 0. -/
def readIdle (s : State) : Bool :=
  match s.busRdata with
  | some v => !v.getLsbD 0
  | none => false

/-- One step of the host: the next line of its program, an idle cycle when there is none (log entry 9). `wait` reads
STATUS and stays where it is while bit 0 of the value read is 1 (R121). -/
def hostStep (s : State) : State :=
  match s.script with
  | [] => busCycle idleCycle s
  | .cycle c :: rest => busCycle c { s with script := rest }
  | .wait :: rest =>
    let t := busCycle (rdCycle Reg.status.addr) s
    if readIdle t then { t with script := rest } else t

/-- The core moves next: a command is in flight and its latency has passed (R84; log entry 1). -/
def coreReady (s : State) : Bool := s.isBusy && s.latLeft == 0

end Sys2Proof.Machine
end

