-- ==== Sys2Proof/Machine/CipherCommands.lean ====
section
/-! DEFINITION. The commands of the block cipher (43_block_cipher.md R241, R245). -/

namespace Sys2Proof.Machine

/-- ENCRYPT (R241). -/
def execEncrypt (s : State) : Host.Outcome State Fault Refusal :=
  .next <| complete s <| requireKey s <| .ok <|
    putDout (putSchedule s (schedule s.kr)) (encryptWith (schedule s.kr).rk s.din)

/-- DECRYPT (R245). -/
def execDecrypt (s : State) : Host.Outcome State Fault Refusal :=
  .next <| complete s <| requireKey s <| .ok <|
    putDout (putSchedule s (schedule s.kr)) (decryptWith (schedule s.kr).rk s.din)

end Sys2Proof.Machine
end

