-- ==== Sys2Proof/Machine/CodecCommands.lean ====
section
/-! DEFINITION. The commands of the codec (44_codec.md R262, R267, R272). -/

namespace Sys2Proof.Machine

/-- ALPHA_COMMIT (R262). -/
def execAlphaCommit (s : State) : Host.Outcome State Fault Refusal :=
  .next <| complete s <|
    match alphaCheck s.alphaLen s.alpha with
    | .badAlphaLen b => .error .badAlphaLen (b.setWidth 64)
    | .duplicateSymbol i j c => .error .duplicateSymbol (duplicateInfo i j c)
    | .ok => .ok { s with alphaValid := true }

/-- ENCODE (R267). -/
def execEncode (s : State) : Host.Outcome State Fault Refusal :=
  .next <| complete s <| requireAlphabet s <| .ok <| putString s (encodeString s.alphabet s.din)

/-- DECODE (R272). -/
def execDecode (s : State) : Host.Outcome State Fault Refusal :=
  .next <| complete s <| requireAlphabet s <|
    withDecoded (decodeString s.alphabet s.symLen s.sym) fun v => .ok (putDout s v)

end Sys2Proof.Machine
end

