-- ==== Sys2Proof/Machine/FacadeControl.lean ====
section
/-! DEFINITION. The facade and the control commands (45_facade_control.md R291 to R304). -/

namespace Sys2Proof.Machine

/-- WRAP (R291): encrypt DIN, then encode the ciphertext; the ciphertext also goes to DOUT. -/
def execWrap (s : State) : Host.Outcome State Fault Refusal :=
  .next <| complete s <| requireKey s <| requireAlphabet s <|
    let c := encryptWith (schedule s.kr).rk s.din
    .ok <| putString (putDout (putSchedule s (schedule s.kr)) c) (encodeString s.alphabet c)

/-- UNWRAP (R294): decode the string, then decrypt the value; a failed decode precedes the schedule. -/
def execUnwrap (s : State) : Host.Outcome State Fault Refusal :=
  .next <| complete s <| requireKey s <| requireAlphabet s <|
    withDecoded (decodeString s.alphabet s.symLen s.sym) fun v =>
      .ok <| putDout (putSchedule s (schedule s.kr)) (decryptWith (schedule s.kr).rk v)

/-- SRST (R300): every register takes its reset value; then the completion sets DONE. -/
def execSrst (s : State) : Host.Outcome State Fault Refusal :=
  .next <| complete s <| .ok <| resetRegs s

/-- NOP (R303). -/
def execNop (s : State) : Host.Outcome State Fault Refusal :=
  .next <| complete s <| .ok s

/-- STATUS_CLR (R304). -/
def execStatusClr (s : State) : Host.Outcome State Fault Refusal :=
  .next <| complete s <| .ok { s with ovr := false }

end Sys2Proof.Machine
end

