-- ==== Sys2Proof/Machine/KeyCommands.lean ====
section
/-! DEFINITION. The commands of the key register (41_key_register.md R176 to R190). -/

namespace Sys2Proof.Machine

/-- KEY_LOAD (R176). -/
def execKeyLoad (s : State) : Host.Outcome State Fault Refusal :=
  .next <| complete s <|
    match keyFromBytes s.keylen s.keyHi s.keyLo with
    | none => .error .invalidKeySize (s.keylen.setWidth 64)
    | some k => .ok { s with kr := k, keyValid := true }

/-- KR_CLONE (R180). -/
def execKrClone (s : State) : Host.Outcome State Fault Refusal :=
  .next <| complete s <| requireKey s <| .ok <| putWk s s.kr

/-- KR_ROTATE (R181). -/
def execKrRotate (s : State) : Host.Outcome State Fault Refusal :=
  .next <| complete s <| .ok <| putWk s (krRot s.wk)

/-- KR_SUBST (R182). -/
def execKrSubst (s : State) : Host.Outcome State Fault Refusal :=
  .next <| complete s <| .ok <| putWk s (krSub s.wk)

/-- KR_INJECT n (R183). -/
def execKrInject (n : BitVec 5) (s : State) : Host.Outcome State Fault Refusal :=
  .next <| complete s <| .ok <| putWk s (krInj s.wk n)

/-- KR_UPDATE n (R184). -/
def execKrUpdate (n : BitVec 5) (s : State) : Host.Outcome State Fault Refusal :=
  .next <| complete s <| .ok <| putWk s (krUpd s.wk n)

/-- KR_EXTRACT (R185). -/
def execKrExtract (s : State) : Host.Outcome State Fault Refusal :=
  .next <| complete s <| .ok <| putDout s (krTop s.wk)

/-- KS_RUN (R190). -/
def execKsRun (s : State) : Host.Outcome State Fault Refusal :=
  .next <| complete s <| requireKey s <| .ok <| putSchedule s (schedule s.kr)

end Sys2Proof.Machine
end

