-- ==== Sys2Proof/Machine/RoundCommands.lean ====
section
/-! DEFINITION. The commands of the round function, from DIN to DOUT (42_round_function.md R215 to R221). -/

namespace Sys2Proof.Machine

/-- ADDKEY n (R215). -/
def execAddkey (n : BitVec 5) (s : State) : Host.Outcome State Fault Refusal :=
  .next <| complete s <| .ok <| putDout s (combine s.din (roundKey s n))

/-- SLAYER (R216). -/
def execSlayer (s : State) : Host.Outcome State Fault Refusal :=
  .next <| complete s <| .ok <| putDout s (slayer s.din sbox)

/-- SLAYER_INV (R217). -/
def execSlayerInv (s : State) : Host.Outcome State Fault Refusal :=
  .next <| complete s <| .ok <| putDout s (slayer s.din sboxInv)

/-- PLAYER (R218). -/
def execPlayer (s : State) : Host.Outcome State Fault Refusal :=
  .next <| complete s <| .ok <| putDout s (player s.din pTable)

/-- PLAYER_INV (R219). -/
def execPlayerInv (s : State) : Host.Outcome State Fault Refusal :=
  .next <| complete s <| .ok <| putDout s (player s.din pInvTable)

/-- RND_FWD n (R220). -/
def execRndFwd (n : BitVec 5) (s : State) : Host.Outcome State Fault Refusal :=
  .next <| complete s <| .ok <| putDout s (roundFwd s.din (roundKey s n))

/-- RND_INV n (R221). -/
def execRndInv (n : BitVec 5) (s : State) : Host.Outcome State Fault Refusal :=
  .next <| complete s <| .ok <| putDout s (roundInv s.din (roundKey s n))

end Sys2Proof.Machine
end

