-- ==== Sys2Proof/Machine/Dispatch.lean ====
section
/-! DEFINITION. The meaning of each command: what its completion does (20_memory.md R84). -/

namespace Sys2Proof.Machine

def exec (i : Instr) (s : State) : Host.Outcome State Fault Refusal :=
  match i with
  | .nop => Sys2Proof.Machine.execNop s
  | .keyLoad => Sys2Proof.Machine.execKeyLoad s
  | .encrypt => Sys2Proof.Machine.execEncrypt s
  | .decrypt => Sys2Proof.Machine.execDecrypt s
  | .wrap => Sys2Proof.Machine.execWrap s
  | .unwrap => Sys2Proof.Machine.execUnwrap s
  | .encode => Sys2Proof.Machine.execEncode s
  | .decode => Sys2Proof.Machine.execDecode s
  | .alphaCommit => Sys2Proof.Machine.execAlphaCommit s
  | .statusClr => Sys2Proof.Machine.execStatusClr s
  | .srst => Sys2Proof.Machine.execSrst s
  | .krClone => Sys2Proof.Machine.execKrClone s
  | .krRotate => Sys2Proof.Machine.execKrRotate s
  | .krSubst => Sys2Proof.Machine.execKrSubst s
  | .krInject n => Sys2Proof.Machine.execKrInject n s
  | .krUpdate n => Sys2Proof.Machine.execKrUpdate n s
  | .krExtract => Sys2Proof.Machine.execKrExtract s
  | .ksRun => Sys2Proof.Machine.execKsRun s
  | .addkey n => Sys2Proof.Machine.execAddkey n s
  | .slayer => Sys2Proof.Machine.execSlayer s
  | .slayerInv => Sys2Proof.Machine.execSlayerInv s
  | .player => Sys2Proof.Machine.execPlayer s
  | .playerInv => Sys2Proof.Machine.execPlayerInv s
  | .rndFwd n => Sys2Proof.Machine.execRndFwd n s
  | .rndInv n => Sys2Proof.Machine.execRndInv n s

end Sys2Proof.Machine
end

