-- ==== Sys2Proof/Machine/Step.lean ====
section
/-! DEFINITION. One step of the machine: the core's completion when it is due, one step of the host otherwise
(10_state.md R30, 20_memory.md R84, R86). -/

namespace Sys2Proof.Machine

/-- One event of the total order of R86. A completion decodes CUR_CMD (R106) and runs its command, or raises
ILLEGAL_COMMAND (R105); any other event is one host step. -/
def step (s : State) : Host.Outcome State Fault Refusal :=
  if coreReady s then
    match decode s.curCmd with
    | some i => exec i s
    | none => .next (complete s (illegalCommand s.curCmd))
  else .next (hostStep s)

/-- s with the instruction's word accepted (R80) and its completion next: CUR_CMD is where a step finds the command it
runs, and latency 0 makes that step the very next one (log entry 5). -/
def State.withFetchWord (s : State) (nbits w : Nat) : State :=
  { accept (BitVec.ofNat 64 (w % 2 ^ nbits)) s with latLeft := 0, lats := s.lats }

end Sys2Proof.Machine
end

