-- ==== Sys2Proof/Machine/HostProgram.lean ====
section
/-! DEFINITION. The host's notation (30_encoding.md R120, R121): each pseudo-instruction as its expansion into lines of
the host's program. A character stands as its 32-bit code (93_implementation_defined.md U12). -/

namespace Sys2Proof.Machine

/-- `rd <loc>` (R120). -/
def hostRd (r : Reg) : List HostInstr := [.cycle (rdCycle r.addr)]

/-- `wr <loc>, <imm>` (R120). -/
def hostWr (r : Reg) (v : Word) : List HostInstr := [.cycle (wrCycle r.addr v)]

/-- `cmd M[, n]`: write the command's word to CMD (R121). -/
def hostCmd (i : Instr) : List HostInstr := hostWr .cmd (encode i)

/-- `run M[, n]`: `cmd M[, n]`, then `wait` (R121). -/
def hostRun (i : Instr) : List HostInstr := hostCmd i ++ [.wait]

/-- `key80 K` (R121). -/
def hostKey80 (k : BitVec 80) : List HostInstr :=
  hostWr .keylen 10 ++ hostWr .keyHi (k.extractLsb' 16 64) ++
    hostWr .keyLo ((k.extractLsb' 0 16).setWidth 64 <<< 48) ++ hostRun .keyLoad

/-- `key128 K` (R121). -/
def hostKey128 (k : BitVec 128) : List HostInstr :=
  hostWr .keylen 16 ++ hostWr .keyHi (k.extractLsb' 64 64) ++
    hostWr .keyLo (k.extractLsb' 0 64) ++ hostRun .keyLoad

/-- `alpha "c0 c1 …"` for at most 256 codes (R121). -/
def hostAlpha (codes : Vector Symbol 256) (b : BitVec 9) : List HostInstr :=
  hostWr .alphaLen (b.setWidth 64) ++
    (((List.finRange 256).take b.toNat).flatMap fun i => hostWr (.alpha i) (codes[i].setWidth 64)) ++
    hostRun .alphaCommit

/-- `str "c0 c1 …"` for at most 64 codes, position 0 first (R121, R265). -/
def hostStr (codes : Vector Symbol 64) (len : BitVec 7) : List HostInstr :=
  (((List.finRange 64).take len.toNat).flatMap fun p => hostWr (.sym p) (codes[p].setWidth 64)) ++
    hostWr .symLen (len.setWidth 64)

/-- The table a host writes for a shuffled alphabet: `ALPHA'[i] = ALPHA[perm(i)]` (R263). The permutation is the
host's parameter SHUFFLE_PERM(seed, b) (log entry 16). -/
def shuffled (perm : Nat → Nat) (alphabet : List Symbol) : List Symbol :=
  (List.range alphabet.length).map fun i => alphabet.getD (perm i) 0

end Sys2Proof.Machine
end

