-- ==== Sys2Proof/Safety.lean ====
section
/-! DEFINITION. The terms claims use: a legal alphabet, the invariants of the machine, and the two ways a command
completes. -/

namespace Sys2Proof

open Machine

/-- The alphabet in ALPHA[0..b−1] is valid: 2 ≤ b ≤ 256 and no code stands twice (44_codec.md R260). -/
def LegalAlphabet (s : State) : Prop :=
  2 ≤ s.alphaLen.toNat ∧ s.alphaLen.toNat ≤ 256 ∧
    ∀ i j : Fin 256, i < j → j.val < s.alphaLen.toNat → s.alpha[i] ≠ s.alpha[j]

/-- ALPHA_VALID means what R33 says: the alphabet passed the check and stands unwritten. -/
def AlphaInv (s : State) : Prop := s.alphaValid = true → LegalAlphabet s

/-- While a command is in flight DONE, ERR and ERRINFO are 0, as its acceptance left them (R80, R84). -/
def InFlightInv (s : State) : Prop :=
  s.phase = .busy → s.done = false ∧ s.err = .success ∧ s.errinfo = 0

/-- The reserved code 2 is never in STATUS.ERR (R311), and ERRINFO is 0 after success (R34). -/
def ErrInv (s : State) : Prop :=
  s.err ≠ .unsupportedBlockSize ∧ (s.err = .success → s.errinfo = 0)

/-- Without a loaded key KR holds its reset value: only KEY_LOAD, reset and SRST write KR (R38). -/
def KeyInv (s : State) : Prop := s.keyValid = false → s.kr = .v80 0

/-- RK is written only as a whole (R42): it holds the reset zeros or the 32 round keys of one key. -/
def RoundKeyInv (s : State) : Prop :=
  s.rk = Vector.replicate 32 0 ∨ ∃ k : KeyReg, s.rk = (schedule k).rk

/-- The machine's invariant. -/
def Inv (s : State) : Prop := AlphaInv s ∧ InFlightInv s ∧ ErrInv s ∧ KeyInv s ∧ RoundKeyInv s

/-- s after its command completed without an error and with no other effect (20_memory.md R84). -/
def succeeded (s : State) : State :=
  { s with phase := .idle, done := true, err := .success, errinfo := 0 }

/-- s after its command raised e with info: nothing else changes (60_exceptions.md R314). -/
def failed (s : State) (e : ErrKind) (info : Word) : State :=
  { s with phase := .idle, done := true, err := e, errinfo := info }

/-- s with v moved to DIN, as a host does between two commands. -/
def withDin (s : State) (v : Word) : State := { s with din := v }

/-- s with v in DOUT and nothing else changed. -/
def withDout (s : State) (v : Word) : State := { s with dout := v }

end Sys2Proof
end

