-- ==== Sys2Proof/Certificates/Slice0/Obligations.lean ====
section
/-! DEFINITION. The statements about presents-core for the provers. Each docstring names the rule of spec/ it states.
A result is stated as the whole next state, so it is also the frame: `succeeded { s with … }` changes what it names,
the completion fields and nothing else; `failed s e info` changes ERR, ERRINFO and the completion fields only. -/

open Sys2Proof Sys2Proof.Machine

namespace Sys2Proof.Claims

/-- The entries of S, written out from 40_tables.md R140. -/
def sEntries : List Nat := [12, 5, 6, 11, 9, 0, 10, 13, 3, 14, 15, 8, 4, 7, 1, 2]

/-- The entries of S⁻¹, written out from 40_tables.md R141. -/
def sInvEntries : List Nat := [5, 14, 15, 8, 12, 1, 2, 13, 11, 4, 6, 3, 0, 7, 9, 10]

/-- The opcodes of form IDX5 (30_encoding.md R104). -/
def idx5Opc (o : Nat) : Prop := o = 0x13 ∨ o = 0x14 ∨ o = 0x20 ∨ o = 0x25 ∨ o = 0x26

/-- The reserved opcodes (30_encoding.md R105 (b)). -/
def reservedOpc (o : Nat) : Prop :=
  (0x09 ≤ o ∧ o ≤ 0x0D) ∨ (0x17 ≤ o ∧ o ≤ 0x1F) ∨ (0x27 ≤ o ∧ o ≤ 0xFF)

/-- A word is illegal (30_encoding.md R105 (a) to (d)). -/
def illegal (v : Word) : Prop :=
  let opc := (v.extractLsb' 0 8).toNat
  v.extractLsb' 16 48 ≠ 0 ∨ reservedOpc opc ∨
    (¬ reservedOpc opc ∧ ¬ idx5Opc opc ∧ v.extractLsb' 8 8 ≠ 0) ∨
    (idx5Opc opc ∧ v.extractLsb' 13 3 ≠ 0)

/-- The unmapped addresses (20_memory.md R76). -/
def unmapped (a : Addr) : Prop :=
  a.toNat = 0x00B ∨ (0x00E ≤ a.toNat ∧ a.toNat ≤ 0x01F) ∨ (0x040 ≤ a.toNat ∧ a.toNat ≤ 0x0FF) ∨ 0x240 ≤ a.toNat

/-- The addresses of the RO registers: ID, STATUS, ERRINFO, DOUT, WK_HI, WK_LO, RK[i] (10_state.md R32, 20_memory.md R77). -/
def readOnly (a : Addr) : Prop :=
  a.toNat = 0x000 ∨ a.toNat = 0x001 ∨ a.toNat = 0x003 ∨ a.toNat = 0x008 ∨ a.toNat = 0x00C ∨ a.toNat = 0x00D ∨
    (0x020 ≤ a.toNat ∧ a.toNat ≤ 0x03F)

/-- The addresses of CMD and of the RW registers: KEYLEN, KEY_HI, KEY_LO, DIN, ALPHA_LEN, SYM_LEN, ALPHA[i], SYM[p]
(10_state.md R32, 20_memory.md R81). -/
def writable (a : Addr) : Prop :=
  a.toNat = 0x002 ∨ a.toNat = 0x004 ∨ a.toNat = 0x005 ∨ a.toNat = 0x006 ∨ a.toNat = 0x007 ∨ a.toNat = 0x009 ∨
    a.toNat = 0x00A ∨ (0x100 ≤ a.toNat ∧ a.toNat ≤ 0x1FF) ∨ (0x200 ≤ a.toNat ∧ a.toNat ≤ 0x23F)

/-- WK_HI and WK_LO. -/
def wkAddr (a : Nat) : Prop := a = 0x00C ∨ a = 0x00D

/-- RK[0..31]. -/
def rkAddr (a : Nat) : Prop := 0x020 ≤ a ∧ a ≤ 0x03F

/-- SYM[0..63] and SYM_LEN. -/
def symAddr (a : Nat) : Prop := (0x200 ≤ a ∧ a ≤ 0x23F) ∨ a = 0x00A

/-- The addresses of the write-set of a command, from the "Writes" of its rule (R176 to R190, R215 to R221, R241, R245,
R262, R267, R272, R291, R294, R300, R303, R304). STATUS is read as R83 says, bit by bit, and is left out (`writesKeyVar`,
`writesWkVar`). For SRST: every register
except ID and CMD (R300); that ERRINFO is in it although R83 gives it the value 0 is the model's choice, log entry 3. -/
def writeSet (i : Instr) (a : Addr) : Prop :=
  match i with
  | .nop | .keyLoad | .alphaCommit | .statusClr => False
  | .krClone | .krRotate | .krSubst | .krInject _ | .krUpdate _ => wkAddr a.toNat
  | .ksRun => rkAddr a.toNat ∨ wkAddr a.toNat
  | .encrypt | .decrypt | .unwrap => a.toNat = 0x008 ∨ rkAddr a.toNat ∨ wkAddr a.toNat
  | .wrap => a.toNat = 0x008 ∨ rkAddr a.toNat ∨ wkAddr a.toNat ∨ symAddr a.toNat
  | .encode => symAddr a.toNat
  | .decode | .krExtract | .addkey _ | .slayer | .slayerInv | .player | .playerInv | .rndFwd _ | .rndInv _ =>
    a.toNat = 0x008
  | .srst => a.toNat ≠ 0x000 ∧ a.toNat ≠ 0x001 ∧ a.toNat ≠ 0x002 ∧ ¬ unmapped a

/-- The command in flight writes STATUS.KEY_VAR: KEY_LOAD (R176). Of SRST, which R300 leaves STATUS out of: log entry 21. -/
def writesKeyVar (s : State) : Prop := decode s.curCmd = some .keyLoad

/-- The command in flight writes STATUS.WK_VAR: KR_CLONE, KS_RUN, ENCRYPT, DECRYPT, WRAP or UNWRAP (R180, R190, R241,
R245, R291, R294). Of SRST: log entry 21. -/
def writesWkVar (s : State) : Prop :=
  ∃ i ∈ [Instr.krClone, .ksRun, .encrypt, .decrypt, .wrap, .unwrap], decode s.curCmd = some i

/-- s after one host cycle that changes no register: only the model's latency count and the read port. -/
def afterCycle (s : State) (rdata : Option Word) : State :=
  { s with busRdata := rdata, latLeft := s.latLeft - 1 }

/-- s after a cycle whose read data is unspecified: one draw, no register changed. -/
def afterDraw (s : State) : State :=
  { afterCycle s (some (Config.freeWord s.draws)) with draws := s.draws + 1 }

/-- The event of the next step is a cycle with rst = 1. -/
def nextIsReset (s : State) : Prop :=
  coreReady s = false ∧ ∃ c rest, s.script = HostInstr.cycle c :: rest ∧ c.rst = true

/-- The event of the next step is the completion of the command i. -/
def nextCompletes (s : State) (i : Instr) : Prop := coreReady s = true ∧ decode s.curCmd = some i

/-- The errors a command can raise (60_exceptions.md R311), besides ILLEGAL_COMMAND. -/
def mayRaise : Instr → List ErrKind
  | .keyLoad => [.invalidKeySize]
  | .alphaCommit => [.duplicateSymbol, .badAlphaLen]
  | .krClone | .ksRun | .encrypt | .decrypt => [.noKey]
  | .encode => [.noAlphabet]
  | .decode => [.invalidSymbol, .noAlphabet, .badSymLen]
  | .wrap => [.noKey, .noAlphabet]
  | .unwrap => [.invalidSymbol, .noKey, .noAlphabet, .badSymLen]
  | .nop | .statusClr | .srst | .krRotate | .krSubst | .krInject _ | .krUpdate _ | .krExtract | .addkey _
  | .slayer | .slayerInv | .player | .playerInv | .rndFwd _ | .rndInv _ => []

end Sys2Proof.Claims

open Sys2Proof.Claims

/-! ## Encoding -/

/-- Decoding the word of a command gives the command back, every operand at every value (30_encoding.md R101, R104, R106). -/
def Obligations.DecodeOfEncodeIsTheCommand : Prop :=
  ∀ i : Instr, i.wf = true ∧ decode (encode i) = some i

/-- A word that decodes to a command is that command's word, so no two words decode to one command (30_encoding.md R106). -/
def Obligations.DecodedWordIsTheCommandsWord : Prop :=
  ∀ (v : Word) (i : Instr), decode v = some i → encode i = v

/-- R105: a word is refused by the decoder exactly when one of (a) to (d) holds; it is still accepted; and at
completion it raises ILLEGAL_COMMAND(v), ERR 5 and ERRINFO the word, and nothing else changes. -/
def Obligations.IllegalWordsRaiseIllegalCommand : Prop :=
  (∀ v : Word, decode v = none ↔ illegal v) ∧
  (∀ (s : State) (v : Word), s.phase = .idle → illegal v →
    (busCycle (wrCycle 0x002 v) s).phase = .busy ∧ (busCycle (wrCycle 0x002 v) s).curCmd = v) ∧
  (∀ s : State, s.phase = .busy → s.latLeft = 0 → illegal s.curCmd →
    step s = .next (failed s .illegalCommand s.curCmd)) ∧
  ErrKind.code .illegalCommand = 5

/-- Words written out from the encodings of R104, one at least of each family, decode to their commands. -/
def Obligations.WordsOfTheOpcodeMapDecode : Prop :=
  decode 0x0000000000000000 = some .nop ∧ decode 0x0000000000000001 = some .keyLoad ∧
  decode 0x0000000000000002 = some .encrypt ∧ decode 0x0000000000000005 = some .unwrap ∧
  decode 0x0000000000000008 = some .alphaCommit ∧ decode 0x000000000000000F = some .srst ∧
  decode 0x0000000000001F13 = some (.krInject 31) ∧ decode 0x0000000000000214 = some (.krUpdate 2) ∧
  decode 0x0000000000001F20 = some (.addkey 31) ∧ decode 0x0000000000000023 = some .player ∧
  decode 0x0000000000001E26 = some (.rndInv 30) ∧ decode 0x0000000000002013 = none ∧
  decode 0x0000000000000102 = none ∧ decode 0x0000000000010000 = none ∧ decode 0x0000000000000009 = none

/-! ## The step -/

/-- When the command in flight is due and its word decodes to i, the step is the execution of i, with nothing around
it (20_memory.md R84, 30_encoding.md R106). -/
def Obligations.StepRunsTheDecodedCommand : Prop :=
  ∀ (s : State) (i : Instr), s.phase = .busy → s.latLeft = 0 → decode s.curCmd = some i → step s = exec i s

/-- Any other step is one host step: the next cycle of the host's program, an idle cycle when there is none, and for
`wait` a read of STATUS (what it returns: ReadsWhileBusy, ReadsWhileIdleAndEmptyCycles) that stays at the line while
BUSY is 1 (30_encoding.md R120, R121). That the latency of a command is counted in host cycles is the model's choice,
log entry 1. -/
def Obligations.OtherStepsAreHostSteps : Prop :=
  ∀ s : State, s.phase = .idle ∨ s.latLeft ≠ 0 →
    (∀ c rest, s.script = HostInstr.cycle c :: rest → step s = .next (busCycle c { s with script := rest })) ∧
    (s.script = [] → step s = .next (afterCycle s none)) ∧
    (∀ rest, s.script = HostInstr.wait :: rest →
      step s = .next { busCycle (rdCycle 0x001) s with
        script := if s.phase = .busy then s.script else rest })

/-- No step stops: every error is an outcome of a command, every access is total (60_exceptions.md R310, R316, 20_memory.md R76). -/
def Obligations.EveryStepAnswersANextState : Prop := ∀ s : State, ∃ t : State, step s = .next t

/-- A command in flight completes, or is abandoned by a reset, within its latency: after finitely many steps the core
is IDLE, whatever the host does (70_reset_and_hazards.md R360). -/
def Obligations.CommandInFlightEndsWithinItsLatency : Prop :=
  ∀ s : State, s.phase = .busy →
    ∃ (k : Nat) (t : State), k ≤ s.latLeft + 1 ∧ Sys2Proof.core.run k s = .next t ∧ t.phase = .idle

/-- Every step keeps the invariant: a committed alphabet is legal, a command in flight has DONE, ERR and ERRINFO at 0,
the reserved code is never reported, KR without a key holds its reset value, RK holds one whole schedule. -/
def Obligations.StepKeepsTheInvariant : Prop :=
  ∀ s t : State, Inv s → step s = .next t → Inv t

/-- The reset state meets the invariant. -/
def Obligations.ResetMeetsTheInvariant : Prop := Inv State.reset

/-! ## Reset -/

/-- The reset values of 10_state.md R55. The ASCII codes of the default alphabet are the spec's general knowledge
(log entry 19). -/
def Obligations.ResetValues : Prop :=
  let s := State.reset
  s.phase = .idle ∧ s.curCmd = 0 ∧ s.done = false ∧ s.keyValid = false ∧ s.alphaValid = true ∧ s.ovr = false ∧
  s.err = .success ∧ s.errinfo = 0 ∧ s.keylen = 0 ∧ s.keyHi = 0 ∧ s.keyLo = 0 ∧ s.kr = .v80 0 ∧ s.wk = .v80 0 ∧
  (∀ i : Fin 32, s.rk[i] = 0) ∧ s.din = 0 ∧ s.dout = 0 ∧ s.alphaLen = 62 ∧ s.symLen = 0 ∧
  (∀ p : Fin 64, s.sym[p] = 0) ∧
  (∀ i : Fin 256, (s.alpha[i]).toNat =
    if i.val < 10 then 0x30 + i.val else if i.val < 36 then 0x41 + (i.val - 10)
    else if i.val < 62 then 0x61 + (i.val - 36) else 0) ∧
  readWord s 0x000 = 0x50524553454E5453 ∧ readWord s 0x001 = 0x20

/-- R341: a cycle with rst = 1, whatever is in flight, leaves exactly the reset registers; no other cycle stops a
command in flight. The model's own fields (log entry 10) and the read port are named apart. -/
def Obligations.ResetInputAbandonsTheCommand : Prop :=
  ∀ (s : State) (c : BusCycle),
    (c.rst = true → busCycle c s =
      { State.reset with
        busRdata := if c.re then some (Config.freeWord s.draws) else none,
        draws := if c.re then s.draws + 1 else s.draws,
        lats := s.lats, script := s.script }) ∧
    (c.rst = false → s.phase = .busy → (busCycle c s).phase = .busy ∧ (busCycle c s).curCmd = s.curCmd)

/-! ## The bus -/

/-- R80: acceptance of a CMD write while BUSY = 0, whatever its value. The latency count is log entry 1. -/
def Obligations.CmdWriteWhileIdleIsAccepted : Prop :=
  ∀ (s : State) (v : Word), s.phase = .idle →
    busCycle (wrCycle 0x002 v) s =
      { s with
        curCmd := v, phase := .busy, done := false, err := .success, errinfo := 0, busRdata := none,
        latLeft := s.lats.headD 0, lats := s.lats.tail } ∧
    busyPort (busCycle (wrCycle 0x002 v) s) = true

/-- R81: a write to an RW register while BUSY = 0 stores the field bits at once and a read returns them; nothing else
changes but ALPHA_VALID, which a write to ALPHA_LEN or ALPHA[i] clears (R47). -/
def Obligations.RwWriteWhileIdleStoresTheField : Prop :=
  ∀ (s : State) (v : Word), s.phase = .idle →
    let t := afterCycle s none
    busCycle (wrCycle 0x004 v) s = { t with keylen := v.extractLsb' 0 8 } ∧
    busCycle (wrCycle 0x005 v) s = { t with keyHi := v } ∧
    busCycle (wrCycle 0x006 v) s = { t with keyLo := v } ∧
    busCycle (wrCycle 0x007 v) s = { t with din := v } ∧
    busCycle (wrCycle 0x009 v) s = { t with alphaLen := v.extractLsb' 0 9, alphaValid := false } ∧
    busCycle (wrCycle 0x00A v) s = { t with symLen := v.extractLsb' 0 7 } ∧
    (∀ i : Fin 256, busCycle (wrCycle (BitVec.ofNat 12 (0x100 + i.val)) v) s =
      { t with alpha := s.alpha.set i (v.extractLsb' 0 32), alphaValid := false }) ∧
    (∀ p : Fin 64, busCycle (wrCycle (BitVec.ofNat 12 (0x200 + p.val)) v) s =
      { t with sym := s.sym.set p (v.extractLsb' 0 32) }) ∧
    (∀ a : Addr, writable a → a.toNat ≠ 0x002 →
      readWord (busCycle (wrCycle a v) s) a =
        if a.toNat = 0x004 then v &&& 0xFF
        else if a.toNat = 0x009 then v &&& 0x1FF
        else if a.toNat = 0x00A then v &&& 0x7F
        else if 0x100 ≤ a.toNat then v &&& 0xFFFFFFFF
        else v)

/-- R82: a write to CMD or an RW register while BUSY = 1 changes nothing but OVR, and OVR stays 1 until STATUS_CLR,
SRST or reset. -/
def Obligations.WriteWhileBusyIsDropped : Prop :=
  (∀ (s : State) (a : Addr) (v : Word), s.phase = .busy → writable a →
    busCycle (wrCycle a v) s = { afterCycle s none with ovr := true }) ∧
  (∀ s t : State, s.ovr = true → step s = .next t → t.ovr = false →
    nextCompletes s .statusClr ∨ nextCompletes s .srst ∨ nextIsReset s)

/-- R76: unmapped addresses read 0 and ignore writes, whatever BUSY is, and never set OVR; no access, mapped or not,
raises an error. -/
def Obligations.UnmappedAddressesReadZeroIgnoreWrites : Prop :=
  (∀ (s : State) (a : Addr) (v : Word), unmapped a →
    busCycle (rdCycle a) s = afterCycle s (some 0) ∧ busCycle (wrCycle a v) s = afterCycle s none) ∧
  (∀ (s : State) (c : BusCycle), (busCycle c s).err = s.err ∨ (busCycle c s).err = .success)

/-- R77: a write to an RO register is ignored, whatever BUSY is; CMD reads 0; bits outside the field of an RW register
read 0 and are ignored on write; KEY_HI, KEY_LO and DIN use all 64 bits. -/
def Obligations.AccessRightsAreKept : Prop :=
  (∀ (s : State) (a : Addr) (v : Word), readOnly a → busCycle (wrCycle a v) s = afterCycle s none) ∧
  (∀ s : State, busCycle (rdCycle 0x002) s = afterCycle s (some 0)) ∧
  (∀ s : State, readWord s 0x004 &&& ~~~0xFF = 0 ∧ readWord s 0x009 &&& ~~~0x1FF = 0 ∧ readWord s 0x00A &&& ~~~0x7F = 0 ∧
    (∀ i : Fin 256, readWord s (BitVec.ofNat 12 (0x100 + i.val)) &&& ~~~0xFFFFFFFF = 0) ∧
    (∀ p : Fin 64, readWord s (BitVec.ofNat 12 (0x200 + p.val)) &&& ~~~0xFFFFFFFF = 0)) ∧
  (∀ (s : State) (v : Word),
    busCycle (wrCycle 0x004 v) s = busCycle (wrCycle 0x004 (v &&& 0xFF)) s ∧
    busCycle (wrCycle 0x009 v) s = busCycle (wrCycle 0x009 (v &&& 0x1FF)) s ∧
    busCycle (wrCycle 0x00A v) s = busCycle (wrCycle 0x00A (v &&& 0x7F)) s ∧
    (∀ i : Fin 256, busCycle (wrCycle (BitVec.ofNat 12 (0x100 + i.val)) v) s =
      busCycle (wrCycle (BitVec.ofNat 12 (0x100 + i.val)) (v &&& 0xFFFFFFFF)) s) ∧
    (∀ p : Fin 64, busCycle (wrCycle (BitVec.ofNat 12 (0x200 + p.val)) v) s =
      busCycle (wrCycle (BitVec.ofNat 12 (0x200 + p.val)) (v &&& 0xFFFFFFFF)) s)) ∧
  (∀ (s : State) (v : Word), s.phase = .idle →
    readWord (busCycle (wrCycle 0x005 v) s) 0x005 = v ∧ readWord (busCycle (wrCycle 0x006 v) s) 0x006 = v ∧
    readWord (busCycle (wrCycle 0x007 v) s) 0x007 = v)

/-- R83 (and the first sentence of R78): what a read returns while BUSY = 1, and that it changes no register. In the
write-set the value is a draw; the statement holds whatever the draw is. STATUS: BUSY 1, DONE 0, ERR 0, the valid bits
and OVR as they stand, the reserved bits 0; KEY_VAR and WK_VAR from the draw where the command in flight writes them
(41_key_register.md: a write-set "is also what is unspecified during BUSY"), as they stand otherwise. Under SRST R300 leaves
STATUS out of what is unspecified (log entry 21); ERRINFO under SRST is log entry 3. -/
def Obligations.ReadsWhileBusy : Prop :=
  (∀ (s : State) (a : Addr), s.phase = .busy →
    ((∃ i, decode s.curCmd = some i ∧ writeSet i a) → busCycle (rdCycle a) s = afterDraw s) ∧
    ((∀ i, decode s.curCmd = some i → ¬ writeSet i a) → a ≠ 0x001 →
      busCycle (rdCycle a) s = afterCycle s (some (readWord s a)) ∧ (a = 0x003 → readWord s a = 0))) ∧
  (∀ s : State, s.phase = .busy → ∃ (w : Word) (n : Nat),
    busCycle (rdCycle 0x001) s = { afterCycle s (some w) with draws := n } ∧
    (n = s.draws ∨ n = s.draws + 1) ∧
    w.extractLsb' 0 2 = 1 ∧ w.extractLsb' 8 4 = 0 ∧ w.getLsbD 7 = false ∧ w.extractLsb' 12 52 = 0 ∧
    w.getLsbD 2 = s.keyValid ∧ w.getLsbD 5 = s.alphaValid ∧ w.getLsbD 6 = s.ovr ∧
    (writesKeyVar s → n = s.draws + 1 ∧ w.getLsbD 3 = (Config.freeWord s.draws).getLsbD 3) ∧
    (¬ writesKeyVar s → (w.getLsbD 3 = true ↔ ∃ k, s.kr = .v128 k)) ∧
    (writesWkVar s → n = s.draws + 1 ∧ w.getLsbD 4 = (Config.freeWord s.draws).getLsbD 4) ∧
    (¬ writesWkVar s → (w.getLsbD 4 = true ↔ ∃ k, s.wk = .v128 k)))

/-- R72: a read while the core is IDLE returns the stored word and changes nothing; a cycle with both strobes is
neither a read nor a write, its read data unspecified (a draw, whatever it is); a cycle with none changes nothing. -/
def Obligations.ReadsWhileIdleAndEmptyCycles : Prop :=
  ∀ (s : State) (c : BusCycle), c.rst = false →
    (s.phase = .idle → c.we = false → c.re = true → busCycle c s = afterCycle s (some (readWord s c.addr))) ∧
    (c.we = true → c.re = true → busCycle c s = afterDraw s) ∧
    (c.we = false → c.re = false → busCycle c s = afterCycle s none)

/-- The word each address reads as where it is not unspecified (10_state.md R32, R35, R41): the register map. -/
def Obligations.RegisterMapReads : Prop :=
  ∀ s : State,
    readWord s 0x000 = 0x50524553454E5453 ∧ readWord s 0x002 = 0 ∧
    (s.phase = .idle → readWord s 0x003 = s.errinfo) ∧
    readWord s 0x004 = s.keylen.setWidth 64 ∧ readWord s 0x005 = s.keyHi ∧ readWord s 0x006 = s.keyLo ∧
    readWord s 0x007 = s.din ∧ readWord s 0x008 = s.dout ∧ readWord s 0x009 = s.alphaLen.setWidth 64 ∧
    readWord s 0x00A = s.symLen.setWidth 64 ∧
    (∀ k, s.wk = .v80 k → readWord s 0x00C = k.extractLsb' 16 64 ∧
      (readWord s 0x00D).extractLsb' 48 16 = k.extractLsb' 0 16 ∧ (readWord s 0x00D).extractLsb' 0 48 = 0) ∧
    (∀ k, s.wk = .v128 k → readWord s 0x00C = k.extractLsb' 64 64 ∧ readWord s 0x00D = k.extractLsb' 0 64) ∧
    (∀ i : Fin 32, readWord s (BitVec.ofNat 12 (0x020 + i.val)) = s.rk[i]) ∧
    (∀ i : Fin 256, readWord s (BitVec.ofNat 12 (0x100 + i.val)) = s.alpha[i].setWidth 64) ∧
    (∀ p : Fin 64, readWord s (BitVec.ofNat 12 (0x200 + p.val)) = s.sym[p].setWidth 64)

/-- The bits of STATUS (10_state.md R33), DONE and ERR at 0 while BUSY = 1 (20_memory.md R83). This is
the stored word: a read while BUSY = 1 leaves bit 3 or 4 unspecified under some commands (ReadsWhileBusy). -/
def Obligations.StatusBits : Prop :=
  ∀ s : State,
    let w := readWord s 0x001
    (w.getLsbD 0 = true ↔ s.phase = .busy) ∧ (w.getLsbD 1 = true ↔ s.phase = .idle ∧ s.done = true) ∧
    w.getLsbD 2 = s.keyValid ∧ (w.getLsbD 3 = true ↔ ∃ k, s.kr = .v128 k) ∧
    (w.getLsbD 4 = true ↔ ∃ k, s.wk = .v128 k) ∧ w.getLsbD 5 = s.alphaValid ∧ w.getLsbD 6 = s.ovr ∧
    w.getLsbD 7 = false ∧ w.extractLsb' 12 52 = 0 ∧
    w.extractLsb' 8 4 = if s.phase = .busy then 0 else s.err.code

/-! ## Key register commands -/

/-- R176 with R175: KEY_LOAD of 10 or 16 bytes writes KR with its variant and sets KEY_VALID; any other KEYLEN raises
INVALID_KEY_SIZE(KEYLEN) and changes nothing else. -/
def Obligations.KeyLoad : Prop :=
  ∀ s : State,
    (s.keylen.toNat = 10 → exec .keyLoad s =
      .next (succeeded { s with kr := .v80 (s.keyHi ++ s.keyLo.extractLsb' 48 16), keyValid := true })) ∧
    (s.keylen.toNat = 16 → exec .keyLoad s =
      .next (succeeded { s with kr := .v128 (s.keyHi ++ s.keyLo), keyValid := true })) ∧
    (s.keylen.toNat ≠ 10 → s.keylen.toNat ≠ 16 → exec .keyLoad s =
      .next (failed s .invalidKeySize (s.keylen.setWidth 64)))

/-- R180: KR_CLONE copies KR with its variant to WK, or raises NO_KEY(0). -/
def Obligations.KrClone : Prop :=
  ∀ s : State,
    (s.keyValid = true → exec .krClone s = .next (succeeded { s with wk := s.kr })) ∧
    (s.keyValid = false → exec .krClone s = .next (failed s .noKey 0))

/-- R170, the rotation KR_ROTATE (R181) does: bit i goes to bit i + 61 modulo the register's width. -/
def Obligations.KrRotate : Prop :=
  ∀ s : State,
    (∀ k : BitVec 80, s.wk = .v80 k → ∃ k' : BitVec 80,
      exec .krRotate s = .next (succeeded { s with wk := .v80 k' }) ∧
      ∀ i : Fin 80, k'.getLsbD ((i.val + 61) % 80) = k.getLsbD i.val) ∧
    (∀ k : BitVec 128, s.wk = .v128 k → ∃ k' : BitVec 128,
      exec .krRotate s = .next (succeeded { s with wk := .v128 k' }) ∧
      ∀ i : Fin 128, k'.getLsbD ((i.val + 61) % 128) = k.getLsbD i.val)

/-- The corner case of R181, an inference the spec marks as its own: as many rotations as the register has bits give
the register back. -/
def Obligations.RotationPeriod : Prop :=
  (∀ k : BitVec 80, krRot^[80] (.v80 k) = .v80 k) ∧ (∀ k : BitVec 128, krRot^[128] (.v128 k) = .v128 k)

/-- R171, the substitution KR_SUBST (R182) does: S on the top nibble (V80) or on the top two (V128). -/
def Obligations.KrSubst : Prop :=
  ∀ s : State,
    (∀ k : BitVec 80, s.wk = .v80 k → ∃ k' : BitVec 80,
      exec .krSubst s = .next (succeeded { s with wk := .v80 k' }) ∧
      k'.extractLsb' 0 76 = k.extractLsb' 0 76 ∧
      sEntries[(k.extractLsb' 76 4).toNat]? = some (k'.extractLsb' 76 4).toNat) ∧
    (∀ k : BitVec 128, s.wk = .v128 k → ∃ k' : BitVec 128,
      exec .krSubst s = .next (succeeded { s with wk := .v128 k' }) ∧
      k'.extractLsb' 0 120 = k.extractLsb' 0 120 ∧
      sEntries[(k.extractLsb' 124 4).toNat]? = some (k'.extractLsb' 124 4).toNat ∧
      sEntries[(k.extractLsb' 120 4).toNat]? = some (k'.extractLsb' 120 4).toNat)

/-- R172, the injection KR_INJECT n (R183) does: counter bit j into register bit 15 + j (V80) or 62 + j (V128), all
other bits untouched. -/
def Obligations.KrInject : Prop :=
  ∀ (s : State) (n : BitVec 5),
    (∀ k : BitVec 80, s.wk = .v80 k → ∃ k' : BitVec 80,
      exec (.krInject n) s = .next (succeeded { s with wk := .v80 k' }) ∧
      ∀ i : Fin 80, k'.getLsbD i.val =
        if 15 ≤ i.val ∧ i.val < 20 then (k.getLsbD i.val ^^ n.getLsbD (i.val - 15)) else k.getLsbD i.val) ∧
    (∀ k : BitVec 128, s.wk = .v128 k → ∃ k' : BitVec 128,
      exec (.krInject n) s = .next (succeeded { s with wk := .v128 k' }) ∧
      ∀ i : Fin 128, k'.getLsbD i.val =
        if 62 ≤ i.val ∧ i.val < 67 then (k.getLsbD i.val ^^ n.getLsbD (i.val - 62)) else k.getLsbD i.val)

/-- The corner case of R184, an inference the spec marks as its own (from the order R174 gives the functions):
KR_UPDATE n completes as KR_ROTATE, then KR_SUBST, then KR_INJECT n do. -/
def Obligations.KrUpdateIsRotateSubstInject : Prop :=
  ∀ (s : State) (n : BitVec 5), ∃ a b c : State,
    exec .krRotate s = .next a ∧ exec .krSubst a = .next b ∧ exec (.krInject n) b = .next c ∧
    exec (.krUpdate n) s = .next c ∧ c = succeeded { s with wk := c.wk }

/-- R173 and R185: KR_EXTRACT writes the top 64 bits of WK to DOUT, which is what WK_HI reads as. -/
def Obligations.KrExtract : Prop :=
  ∀ s : State,
    (∀ k, s.wk = .v80 k → exec .krExtract s = .next (succeeded (withDout s (k.extractLsb' 16 64)))) ∧
    (∀ k, s.wk = .v128 k → exec .krExtract s = .next (succeeded (withDout s (k.extractLsb' 64 64)))) ∧
    exec .krExtract s = .next (succeeded (withDout s (readWord s 0x00C)))

/-- R190 with R177: KS_RUN writes the 32 round keys of one walk w of rotate, substitute, inject r (r = 1..31) from KR,
and the last register, or raises NO_KEY(0). -/
def Obligations.KsRun : Prop :=
  ∀ s : State,
    (s.keyValid = true → ∃ w : Nat → KeyReg,
      w 0 = s.kr ∧ (∀ r < 31, w (r + 1) = krInj (krSub (krRot (w r))) (BitVec.ofNat 5 (r + 1))) ∧
      exec .ksRun s = .next (succeeded { s with rk := Vector.ofFn fun r => krTop (w r.val), wk := w 31 })) ∧
    (s.keyValid = false → exec .ksRun s = .next (failed s .noKey 0))

/-- The corner case of R184, an inference the spec marks as its own: KR_CLONE, then KR_UPDATE 1 to 31, walk WK through
the registers whose tops KS_RUN writes to RK, and end where KS_RUN leaves WK. -/
def Obligations.StepwiseWalkIsKsRun : Prop :=
  ∀ s : State, s.keyValid = true → ∃ (u : Nat → State) (t : State),
    exec .krClone s = .next (u 0) ∧
    (∀ r < 31, exec (.krUpdate (BitVec.ofNat 5 (r + 1))) (u r) = .next (u (r + 1))) ∧
    exec .ksRun s = .next t ∧ t.wk = (u 31).wk ∧
    (∀ r : Fin 32, exec .krExtract (u r.val) = .next (succeeded (withDout (u r.val) t.rk[r])))

/-! ## Round function commands -/

/-- R215 with R210: ADDKEY n writes DIN ^ RK[n] to DOUT, for every n. -/
def Obligations.Addkey : Prop :=
  ∀ (s : State) (n : BitVec 5), exec (.addkey n) s = .next (succeeded (withDout s (s.din ^^^ s.rk[n.toNat])))

/-- R216, R217 with R140, R141, R146: SLAYER and SLAYER_INV replace each nibble by its entry of S or S⁻¹. -/
def Obligations.SlayerReplacesEachNibble : Prop :=
  ∀ s : State,
    (∃ d : Word, exec .slayer s = .next (succeeded (withDout s d)) ∧
      ∀ i : Fin 16, sEntries[(s.din.extractLsb' (4 * i.val) 4).toNat]? = some (d.extractLsb' (4 * i.val) 4).toNat) ∧
    (∃ d : Word, exec .slayerInv s = .next (succeeded (withDout s d)) ∧
      ∀ i : Fin 16, sInvEntries[(s.din.extractLsb' (4 * i.val) 4).toNat]? = some (d.extractLsb' (4 * i.val) 4).toNat)

/-- PLAYER and PLAYER_INV (R218, R219) move bit i to P[i] = 16 (i mod 4) + i div 4, and back. The values of P are the
spec's general knowledge (R143: "This spec takes those of the PRESENT pLayer", log entry 8). -/
def Obligations.PlayerMovesEachBit : Prop :=
  ∀ s : State,
    (∃ d : Word, exec .player s = .next (succeeded (withDout s d)) ∧
      ∀ i : Fin 64, d.getLsbD (16 * (i.val % 4) + i.val / 4) = s.din.getLsbD i.val) ∧
    (∃ d : Word, exec .playerInv s = .next (succeeded (withDout s d)) ∧
      ∀ j : Fin 64, d.getLsbD (4 * (j.val % 16) + j.val / 16) = s.din.getLsbD j.val)

/-- R220, R221 with R211, R212 in the commands: RND_FWD n is ADDKEY n, SLAYER, PLAYER with each result moved to DIN;
RND_INV n is PLAYER_INV, SLAYER_INV, ADDKEY n. -/
def Obligations.RoundsAreTheirLayers : Prop :=
  ∀ (s : State) (n : BitVec 5),
    (∃ x y z : Word,
      exec (.addkey n) s = .next (succeeded (withDout s x)) ∧
      exec .slayer (withDin s x) = .next (succeeded (withDout (withDin s x) y)) ∧
      exec .player (withDin s y) = .next (succeeded (withDout (withDin s y) z)) ∧
      exec (.rndFwd n) s = .next (succeeded (withDout s z))) ∧
    (∃ x y z : Word,
      exec .playerInv s = .next (succeeded (withDout s x)) ∧
      exec .slayerInv (withDin s x) = .next (succeeded (withDout (withDin s x) y)) ∧
      exec (.addkey n) (withDin s y) = .next (succeeded (withDout (withDin s y) z)) ∧
      exec (.rndInv n) s = .next (succeeded (withDout s z)))

/-- The inverse laws of the layers, an inference the spec marks as its own (40_tables.md R149), as commands: the result
of one, moved to DIN, is undone by the other. -/
def Obligations.LayerCommandsInvertEachOther : Prop :=
  ∀ s : State, ∃ a b c d : Word,
    exec .slayer s = .next (succeeded (withDout s a)) ∧
    exec .slayerInv (withDin s a) = .next (succeeded (withDout (withDin s a) s.din)) ∧
    exec .slayerInv s = .next (succeeded (withDout s b)) ∧
    exec .slayer (withDin s b) = .next (succeeded (withDout (withDin s b) s.din)) ∧
    exec .player s = .next (succeeded (withDout s c)) ∧
    exec .playerInv (withDin s c) = .next (succeeded (withDout (withDin s c) s.din)) ∧
    exec .playerInv s = .next (succeeded (withDout s d)) ∧
    exec .player (withDin s d) = .next (succeeded (withDout (withDin s d) s.din))

/-- The inverse law of the round, an inference the spec marks as its own (42_round_function.md R213): RND_INV n undoes
RND_FWD n as long as RK is not rewritten. -/
def Obligations.RndInvUndoesRndFwd : Prop :=
  ∀ (s : State) (n : BitVec 5), ∃ x : Word,
    exec (.rndFwd n) s = .next (succeeded (withDout s x)) ∧
    exec (.rndInv n) (withDin s x) = .next (succeeded (withDout (withDin s x) s.din))

/-! ## Cipher commands -/

/-- R241 with R240 in the commands: ENCRYPT leaves what KS_RUN leaves, and in DOUT the result of RND_FWD 0 to 30 from
DIN and then ADDKEY 31; or it raises NO_KEY(0). -/
def Obligations.EncryptIsItsRounds : Prop :=
  ∀ s : State,
    (s.keyValid = true → ∃ (u : State) (x : Nat → Word) (y : Word),
      exec .ksRun s = .next u ∧ x 0 = s.din ∧
      (∀ i < 31, exec (.rndFwd (BitVec.ofNat 5 i)) (withDin u (x i)) =
        .next (succeeded (withDout (withDin u (x i)) (x (i + 1))))) ∧
      exec (.addkey 31) (withDin u (x 31)) = .next (succeeded (withDout (withDin u (x 31)) y)) ∧
      exec .encrypt s = .next (withDout u y)) ∧
    (s.keyValid = false → exec .encrypt s = .next (failed s .noKey 0))

/-- R245 with R242 in the commands: DECRYPT leaves what KS_RUN leaves, and in DOUT the result of ADDKEY 31 and then
RND_INV 30 down to 0 (x i is the block before RND_INV i - 1); or it raises NO_KEY(0). -/
def Obligations.DecryptIsItsRounds : Prop :=
  ∀ s : State,
    (s.keyValid = true → ∃ (u : State) (x : Nat → Word),
      exec .ksRun s = .next u ∧
      exec (.addkey 31) (withDin u s.din) = .next (succeeded (withDout (withDin u s.din) (x 31))) ∧
      (∀ i < 31, exec (.rndInv (BitVec.ofNat 5 i)) (withDin u (x (i + 1))) =
        .next (succeeded (withDout (withDin u (x (i + 1))) (x i)))) ∧
      exec .decrypt s = .next (withDout u (x 0))) ∧
    (s.keyValid = false → exec .decrypt s = .next (failed s .noKey 0))

/-- The inverse law of the cipher, an inference the spec marks as its own (43_block_cipher.md R243), both ways, for
every block and every key of both variants. -/
def Obligations.DecryptInvertsEncrypt : Prop :=
  ∀ s : State, s.keyValid = true →
    (∃ t u : State, exec .encrypt s = .next t ∧ exec .decrypt (withDin t t.dout) = .next u ∧ u.dout = s.din) ∧
    (∃ t u : State, exec .decrypt s = .next t ∧ exec .encrypt (withDin t t.dout) = .next u ∧ u.dout = s.din)

/-- Purity, an inference the spec marks as its own (43_block_cipher.md R244): the results of ENCRYPT and DECRYPT depend
on DIN and on KR with its variant only, so nothing left in WK, RK, DOUT or any other state changes them. -/
def Obligations.CipherDependsOnBlockAndKeyOnly : Prop :=
  ∀ s t : State, s.keyValid = true → t.keyValid = true → s.kr = t.kr → s.din = t.din →
    ∃ s1 t1 s2 t2 : State,
      exec .encrypt s = .next s1 ∧ exec .encrypt t = .next t1 ∧ s1.dout = t1.dout ∧
      exec .decrypt s = .next s2 ∧ exec .decrypt t = .next t2 ∧ s2.dout = t2.dout

/-! ## Codec commands -/

/-- R262 with R261: ALPHA_COMMIT sets ALPHA_VALID when the alphabet is legal; a length outside 2..256 raises
BAD_ALPHA_LEN(b); otherwise the repeated code with the smallest j, and for that j the smallest i, is raised as
DUPLICATE_SYMBOL with bits 63:32 the code, 31:16 i, 15:0 j. On failure ALPHA_VALID stays as it was, and the table is
never modified. -/
def Obligations.AlphaCommit : Prop :=
  ∀ s : State,
    (LegalAlphabet s → exec .alphaCommit s = .next (succeeded { s with alphaValid := true })) ∧
    (¬ LegalAlphabet s → ∃ (e : ErrKind) (info : Word),
      e ≠ .success ∧ exec .alphaCommit s = .next (failed s e info)) ∧
    (s.alphaLen.toNat < 2 ∨ 256 < s.alphaLen.toNat →
      exec .alphaCommit s = .next (failed s .badAlphaLen (s.alphaLen.setWidth 64))) ∧
    (∀ i j : Fin 256, 2 ≤ s.alphaLen.toNat → s.alphaLen.toNat ≤ 256 → i < j → j.val < s.alphaLen.toNat →
      s.alpha[i] = s.alpha[j] →
      (∀ j' i' : Fin 256, j' < j → i' < j' → s.alpha[i'] ≠ s.alpha[j']) →
      (∀ i' : Fin 256, i' < i → s.alpha[i'] ≠ s.alpha[j]) →
      exec .alphaCommit s = .next (failed s .duplicateSymbol
        (BitVec.ofNat 64 ((s.alpha[j]).toNat * 2 ^ 32 + i.val * 2 ^ 16 + j.val))))

/-- R267 with R266 and R268: ENCODE writes the base-b digits of DIN, position 0 the least significant, as symbols, L
the least length with n < b^L (1 for n = 0); SYM[p] for p ≥ L keeps its value; with ALPHA_VALID = 0 it raises
NO_ALPHABET(0). The legal alphabet is the invariant of ALPHA_VALID (StepKeepsTheInvariant). -/
def Obligations.EncodeWritesTheDigits : Prop :=
  ∀ s : State,
    (s.alphaValid = true → LegalAlphabet s → ∃ (l : Nat) (sym : Vector Symbol 64),
      exec .encode s = .next (succeeded { s with sym := sym, symLen := BitVec.ofNat 7 l }) ∧
      1 ≤ l ∧ l ≤ 64 ∧ s.din.toNat < s.alphaLen.toNat ^ l ∧
      (l = 1 ∨ s.alphaLen.toNat ^ (l - 1) ≤ s.din.toNat) ∧
      (∀ (p : Fin 64) (d : Fin 256), p.val < l →
        d.val = s.din.toNat / s.alphaLen.toNat ^ p.val % s.alphaLen.toNat → sym[p] = s.alpha[d]) ∧
      (∀ p : Fin 64, l ≤ p.val → sym[p] = s.sym[p])) ∧
    (s.alphaValid = false → exec .encode s = .next (failed s .noAlphabet 0))

/-- R272 with R270 and R271: DECODE writes the sum of idx_of(SYM[p]) b^p modulo 2^64 when every symbol is in the
alphabet; a length outside 1..64 raises BAD_SYM_LEN; the lowest position whose symbol is not in the alphabet is raised as
INVALID_SYMBOL with its code in bits 63:32; with ALPHA_VALID = 0 it raises NO_ALPHABET(0). -/
def Obligations.DecodeSumsTheDigits : Prop :=
  ∀ s : State,
    (s.alphaValid = false → exec .decode s = .next (failed s .noAlphabet 0)) ∧
    (s.alphaValid = true → LegalAlphabet s →
      (s.symLen.toNat < 1 ∨ 64 < s.symLen.toNat →
        exec .decode s = .next (failed s .badSymLen (s.symLen.setWidth 64))) ∧
      (∀ d : Fin 64 → Fin 256, 1 ≤ s.symLen.toNat → s.symLen.toNat ≤ 64 →
        (∀ p : Fin 64, p.val < s.symLen.toNat → (d p).val < s.alphaLen.toNat ∧ s.alpha[d p] = s.sym[p]) →
        exec .decode s = .next (succeeded { s with
          dout := BitVec.ofNat 64 (∑ p : Fin 64,
            if p.val < s.symLen.toNat then (d p).val * s.alphaLen.toNat ^ p.val else 0) })) ∧
      (∀ p : Fin 64, s.symLen.toNat ≤ 64 → p.val < s.symLen.toNat →
        (∀ i : Fin 256, i.val < s.alphaLen.toNat → s.alpha[i] ≠ s.sym[p]) →
        (∀ q : Fin 64, q < p → ∃ i : Fin 256, i.val < s.alphaLen.toNat ∧ s.alpha[i] = s.sym[q]) →
        exec .decode s = .next (failed s .invalidSymbol
          (BitVec.ofNat 64 ((s.sym[p]).toNat * 2 ^ 32 + p.val)))))

/-- The inverse law of the codec, an inference the spec marks as its own (44_codec.md R273): DECODE of what ENCODE
wrote gives DIN, for every 64-bit value and every valid alphabet. -/
def Obligations.DecodeInvertsEncode : Prop :=
  ∀ s : State, s.alphaValid = true → LegalAlphabet s →
    ∃ t u : State, exec .encode s = .next t ∧ exec .decode t = .next u ∧ u = succeeded (withDout t s.din)

/-- The note of R263, an inference the spec marks as its own: a permutation of a valid table is valid, so ALPHA_COMMIT
of a shuffled table always succeeds, whatever SHUFFLE_PERM is (log entry 16). -/
def Obligations.ShuffledAlphabetCommits : Prop :=
  ∀ (s t : State) (perm : Nat → Nat), LegalAlphabet s → t.alphaLen = s.alphaLen →
    (∀ i < s.alphaLen.toNat, perm i < s.alphaLen.toNat) →
    (∀ i < s.alphaLen.toNat, ∀ j < s.alphaLen.toNat, perm i = perm j → i = j) →
    t.alphabet = shuffled perm s.alphabet →
    exec .alphaCommit t = .next (succeeded { t with alphaValid := true })

/-! ## Facade commands -/

/-- R291 with R290: WRAP leaves what ENCRYPT leaves, then what ENCODE of the ciphertext leaves, DIN kept; it raises
NO_KEY(0), then NO_ALPHABET(0). -/
def Obligations.WrapIsEncryptThenEncode : Prop :=
  ∀ s : State,
    (s.keyValid = true → s.alphaValid = true → ∃ t u : State,
      exec .encrypt s = .next t ∧ exec .encode (withDin t t.dout) = .next u ∧
      exec .wrap s = .next (withDin u s.din) ∧
      u = succeeded { s with
        din := t.dout, dout := t.dout, rk := t.rk, wk := t.wk, sym := u.sym, symLen := u.symLen }) ∧
    (s.keyValid = false → exec .wrap s = .next (failed s .noKey 0)) ∧
    (s.keyValid = true → s.alphaValid = false → exec .wrap s = .next (failed s .noAlphabet 0))

/-- R294 with R290: UNWRAP leaves what DECRYPT of the decoded value leaves, DIN kept; a failed DECODE is its failure,
word for word, and leaves RK and WK; it raises NO_KEY(0), then NO_ALPHABET(0). With a string of legal length over a
legal alphabet it completes, whatever the string. -/
def Obligations.UnwrapIsDecodeThenDecrypt : Prop :=
  ∀ s : State,
    (s.keyValid = false → exec .unwrap s = .next (failed s .noKey 0)) ∧
    (s.keyValid = true → s.alphaValid = false → exec .unwrap s = .next (failed s .noAlphabet 0)) ∧
    (s.keyValid = true → s.alphaValid = true → ∃ t : State, exec .decode s = .next t ∧
      (t.err ≠ .success → exec .unwrap s = .next t) ∧
      (t.err = .success → ∃ u : State, exec .decrypt (withDin s t.dout) = .next u ∧
        exec .unwrap s = .next (withDin u s.din))) ∧
    (s.keyValid = true → s.alphaValid = true → LegalAlphabet s → 1 ≤ s.symLen.toNat → s.symLen.toNat ≤ 64 →
      (∀ p : Fin 64, p.val < s.symLen.toNat →
        ∃ i : Fin 256, i.val < s.alphaLen.toNat ∧ s.alpha[i] = s.sym[p]) →
      ∃ (v : Word) (u : State), exec .decode s = .next (succeeded (withDout s v)) ∧
        exec .decrypt (withDin s v) = .next u ∧ exec .unwrap s = .next (withDin u s.din))

/-- The round trip, an inference the spec marks as its own (45_facade_control.md R292): UNWRAP of what WRAP wrote
returns DIN, for every key, alphabet and value. -/
def Obligations.UnwrapInvertsWrap : Prop :=
  ∀ s : State, s.keyValid = true → s.alphaValid = true → LegalAlphabet s →
    ∃ t u : State, exec .wrap s = .next t ∧ exec .unwrap t = .next u ∧ u = succeeded (withDout t s.din)

/-- Injectivity, an inference the spec marks as its own (45_facade_control.md R292): two states that differ in DIN
only get different strings from WRAP. -/
def Obligations.WrapIsInjective : Prop :=
  ∀ (s : State) (n : Word), s.keyValid = true → s.alphaValid = true → LegalAlphabet s → n ≠ s.din →
    ∃ t u : State, exec .wrap s = .next t ∧ exec .wrap (withDin s n) = .next u ∧
      (t.symLen ≠ u.symLen ∨ ∃ p : Fin 64, p.val < t.symLen.toNat ∧ t.sym[p] ≠ u.sym[p])

/-! ## Control commands -/

/-- R300 and R342: after SRST every register holds its reset value, but DONE is 1; STATUS reads 0x22. The model's own
fields (log entry 10) and the read port are named apart. -/
def Obligations.SrstRestoresReset : Prop :=
  ∀ s : State, ∃ t : State, exec .srst s = .next t ∧
    t = { State.reset with
      done := true, busRdata := s.busRdata, lats := s.lats, script := s.script, draws := s.draws } ∧
    readWord t 0x001 = 0x22

/-- R303: NOP writes nothing beyond the completion fields. -/
def Obligations.NopOnlyCompletes : Prop := ∀ s : State, exec .nop s = .next (succeeded s)

/-- R304: STATUS_CLR clears OVR and nothing else. -/
def Obligations.StatusClrClearsOvr : Prop :=
  ∀ s : State, exec .statusClr s = .next (succeeded { s with ovr := false })

/-! ## Rules over all commands -/

/-- R38: KR and KEY_VALID are written only by a successful KEY_LOAD, by SRST and by reset, no other event changes
them, and KR is not on the bus: no address but STATUS, by its KEY_VAR, depends on it. -/
def Obligations.OnlyKeyLoadAndResetWriteKr : Prop :=
  (∀ s t : State, step s = .next t → t.kr ≠ s.kr ∨ t.keyValid ≠ s.keyValid →
    (nextCompletes s .keyLoad ∧ t.err = .success) ∨ nextCompletes s .srst ∨ nextIsReset s) ∧
  (∀ (s : State) (k : KeyReg) (a : Addr), k.variant = s.kr.variant ∨ a ≠ 0x001 →
    readWord { s with kr := k } a = readWord s a)

/-- R42: RK is written only by KS_RUN, ENCRYPT, DECRYPT, WRAP and UNWRAP, as a whole with the schedule of KR (what
that is: KsRun), and by SRST and reset, with zeros. -/
def Obligations.OnlySchedulesWriteRk : Prop :=
  ∀ s t : State, step s = .next t → t.rk ≠ s.rk →
    ((nextCompletes s .ksRun ∨ nextCompletes s .encrypt ∨ nextCompletes s .decrypt ∨ nextCompletes s .wrap ∨
      nextCompletes s .unwrap) ∧ t.rk = (schedule s.kr).rk) ∨
    ((nextCompletes s .srst ∨ nextIsReset s) ∧ ∀ i : Fin 32, t.rk[i] = 0)

/-- R47: ALPHA_VALID is set only by a successful ALPHA_COMMIT, by SRST and by reset, and it is cleared only by a host
write to ALPHA_LEN or ALPHA[i] that is not dropped, which clears it always, whatever is written. While it is 0 ENCODE,
DECODE, WRAP and UNWRAP fail with NO_ALPHABET(0); the last two with a key, since NO_KEY comes first (R315). -/
def Obligations.AlphaValidFollowsTheTable : Prop :=
  (∀ s : State, s.alphaValid = false →
    exec .encode s = .next (failed s .noAlphabet 0) ∧ exec .decode s = .next (failed s .noAlphabet 0) ∧
    (s.keyValid = true →
      exec .wrap s = .next (failed s .noAlphabet 0) ∧ exec .unwrap s = .next (failed s .noAlphabet 0))) ∧
  ∀ s t : State, step s = .next t →
    (s.alphaValid = false → t.alphaValid = true →
      (nextCompletes s .alphaCommit ∧ t.err = .success) ∨ nextCompletes s .srst ∨ nextIsReset s) ∧
    (s.alphaValid = true → t.alphaValid = false →
      s.phase = .idle ∧ ∃ c rest, s.script = HostInstr.cycle c :: rest ∧ c.rst = false ∧ c.we = true ∧ c.re = false ∧
        (c.addr = 0x009 ∨ (0x100 ≤ c.addr.toNat ∧ c.addr.toNat ≤ 0x1FF))) ∧
    (∀ c rest, s.phase = .idle → s.script = HostInstr.cycle c :: rest → c.rst = false → c.we = true → c.re = false →
      (c.addr = 0x009 ∨ (0x100 ≤ c.addr.toNat ∧ c.addr.toNat ≤ 0x1FF)) → t.alphaValid = false)

/-- R314: a command that raises writes only ERR and ERRINFO, with the completion fields. -/
def Obligations.FailedCommandChangesOnlyTheError : Prop :=
  ∀ (i : Instr) (s : State), ∃ t : State, exec i s = .next t ∧
    (t.err ≠ .success → t = failed s t.err t.errinfo) ∧ t.phase = .idle ∧ t.done = true ∧
    (t.err = .success → t.errinfo = 0)

/-- R311: a command raises only the codes listed for it, and the codes are the table's. -/
def Obligations.CommandsRaiseOnlyTheirCodes : Prop :=
  (∀ (i : Instr) (s t : State), exec i s = .next t → t.err = .success ∨ t.err ∈ mayRaise i) ∧
  (ErrKind.code .success = 0 ∧ ErrKind.code .invalidKeySize = 1 ∧ ErrKind.code .unsupportedBlockSize = 2 ∧
   ErrKind.code .duplicateSymbol = 3 ∧ ErrKind.code .invalidSymbol = 4 ∧ ErrKind.code .illegalCommand = 5 ∧
   ErrKind.code .noKey = 6 ∧ ErrKind.code .noAlphabet = 7 ∧ ErrKind.code .badAlphaLen = 8 ∧
   ErrKind.code .badSymLen = 9)

/-- The frame of every command over the bus (20_memory.md R83, R84): an address outside the command's write-set, other
than STATUS and ERRINFO, reads after the completion as it read before, whatever it reads. -/
def Obligations.AddressesOutsideTheWriteSetKeep : Prop :=
  ∀ (i : Instr) (s t : State) (a : Addr), exec i s = .next t → ¬ writeSet i a → a ≠ 0x001 → a ≠ 0x003 →
    readWord t a = readWord s a
end

