-- ==== Sys2Proof/Laws/State.lean ====
section
/-! SUPPORT. One lemma per field per shared update, true by rfl, so that no later proof unfolds a record update. -/

namespace Sys2Proof.Machine

@[simp] theorem completeOk_phase (s : State) : (completeOk s).phase = .idle := rfl
@[simp] theorem completeOk_curCmd (s : State) : (completeOk s).curCmd = s.curCmd := rfl
@[simp] theorem completeOk_done (s : State) : (completeOk s).done = true := rfl
@[simp] theorem completeOk_keyValid (s : State) : (completeOk s).keyValid = s.keyValid := rfl
@[simp] theorem completeOk_alphaValid (s : State) : (completeOk s).alphaValid = s.alphaValid := rfl
@[simp] theorem completeOk_ovr (s : State) : (completeOk s).ovr = s.ovr := rfl
@[simp] theorem completeOk_err (s : State) : (completeOk s).err = .success := rfl
@[simp] theorem completeOk_errinfo (s : State) : (completeOk s).errinfo = 0 := rfl
@[simp] theorem completeOk_keylen (s : State) : (completeOk s).keylen = s.keylen := rfl
@[simp] theorem completeOk_keyHi (s : State) : (completeOk s).keyHi = s.keyHi := rfl
@[simp] theorem completeOk_keyLo (s : State) : (completeOk s).keyLo = s.keyLo := rfl
@[simp] theorem completeOk_kr (s : State) : (completeOk s).kr = s.kr := rfl
@[simp] theorem completeOk_wk (s : State) : (completeOk s).wk = s.wk := rfl
@[simp] theorem completeOk_rk (s : State) : (completeOk s).rk = s.rk := rfl
@[simp] theorem completeOk_din (s : State) : (completeOk s).din = s.din := rfl
@[simp] theorem completeOk_dout (s : State) : (completeOk s).dout = s.dout := rfl
@[simp] theorem completeOk_alphaLen (s : State) : (completeOk s).alphaLen = s.alphaLen := rfl
@[simp] theorem completeOk_alpha (s : State) : (completeOk s).alpha = s.alpha := rfl
@[simp] theorem completeOk_symLen (s : State) : (completeOk s).symLen = s.symLen := rfl
@[simp] theorem completeOk_sym (s : State) : (completeOk s).sym = s.sym := rfl
@[simp] theorem completeOk_busRdata (s : State) : (completeOk s).busRdata = s.busRdata := rfl
@[simp] theorem completeOk_latLeft (s : State) : (completeOk s).latLeft = s.latLeft := rfl
@[simp] theorem completeOk_lats (s : State) : (completeOk s).lats = s.lats := rfl
@[simp] theorem completeOk_script (s : State) : (completeOk s).script = s.script := rfl
@[simp] theorem completeOk_draws (s : State) : (completeOk s).draws = s.draws := rfl

@[simp] theorem completeError_phase (s : State) (e : ErrKind) (info : Word) : (completeError s e info).phase = .idle := rfl
@[simp] theorem completeError_curCmd (s : State) (e : ErrKind) (info : Word) : (completeError s e info).curCmd = s.curCmd := rfl
@[simp] theorem completeError_done (s : State) (e : ErrKind) (info : Word) : (completeError s e info).done = true := rfl
@[simp] theorem completeError_keyValid (s : State) (e : ErrKind) (info : Word) : (completeError s e info).keyValid = s.keyValid := rfl
@[simp] theorem completeError_alphaValid (s : State) (e : ErrKind) (info : Word) : (completeError s e info).alphaValid = s.alphaValid := rfl
@[simp] theorem completeError_ovr (s : State) (e : ErrKind) (info : Word) : (completeError s e info).ovr = s.ovr := rfl
@[simp] theorem completeError_err (s : State) (e : ErrKind) (info : Word) : (completeError s e info).err = e := rfl
@[simp] theorem completeError_errinfo (s : State) (e : ErrKind) (info : Word) : (completeError s e info).errinfo = info := rfl
@[simp] theorem completeError_keylen (s : State) (e : ErrKind) (info : Word) : (completeError s e info).keylen = s.keylen := rfl
@[simp] theorem completeError_keyHi (s : State) (e : ErrKind) (info : Word) : (completeError s e info).keyHi = s.keyHi := rfl
@[simp] theorem completeError_keyLo (s : State) (e : ErrKind) (info : Word) : (completeError s e info).keyLo = s.keyLo := rfl
@[simp] theorem completeError_kr (s : State) (e : ErrKind) (info : Word) : (completeError s e info).kr = s.kr := rfl
@[simp] theorem completeError_wk (s : State) (e : ErrKind) (info : Word) : (completeError s e info).wk = s.wk := rfl
@[simp] theorem completeError_rk (s : State) (e : ErrKind) (info : Word) : (completeError s e info).rk = s.rk := rfl
@[simp] theorem completeError_din (s : State) (e : ErrKind) (info : Word) : (completeError s e info).din = s.din := rfl
@[simp] theorem completeError_dout (s : State) (e : ErrKind) (info : Word) : (completeError s e info).dout = s.dout := rfl
@[simp] theorem completeError_alphaLen (s : State) (e : ErrKind) (info : Word) : (completeError s e info).alphaLen = s.alphaLen := rfl
@[simp] theorem completeError_alpha (s : State) (e : ErrKind) (info : Word) : (completeError s e info).alpha = s.alpha := rfl
@[simp] theorem completeError_symLen (s : State) (e : ErrKind) (info : Word) : (completeError s e info).symLen = s.symLen := rfl
@[simp] theorem completeError_sym (s : State) (e : ErrKind) (info : Word) : (completeError s e info).sym = s.sym := rfl
@[simp] theorem completeError_busRdata (s : State) (e : ErrKind) (info : Word) : (completeError s e info).busRdata = s.busRdata := rfl
@[simp] theorem completeError_latLeft (s : State) (e : ErrKind) (info : Word) : (completeError s e info).latLeft = s.latLeft := rfl
@[simp] theorem completeError_lats (s : State) (e : ErrKind) (info : Word) : (completeError s e info).lats = s.lats := rfl
@[simp] theorem completeError_script (s : State) (e : ErrKind) (info : Word) : (completeError s e info).script = s.script := rfl
@[simp] theorem completeError_draws (s : State) (e : ErrKind) (info : Word) : (completeError s e info).draws = s.draws := rfl

@[simp] theorem accept_phase (v : Word) (s : State) : (accept v s).phase = .busy := rfl
@[simp] theorem accept_curCmd (v : Word) (s : State) : (accept v s).curCmd = v := rfl
@[simp] theorem accept_done (v : Word) (s : State) : (accept v s).done = false := rfl
@[simp] theorem accept_keyValid (v : Word) (s : State) : (accept v s).keyValid = s.keyValid := rfl
@[simp] theorem accept_alphaValid (v : Word) (s : State) : (accept v s).alphaValid = s.alphaValid := rfl
@[simp] theorem accept_ovr (v : Word) (s : State) : (accept v s).ovr = s.ovr := rfl
@[simp] theorem accept_err (v : Word) (s : State) : (accept v s).err = .success := rfl
@[simp] theorem accept_errinfo (v : Word) (s : State) : (accept v s).errinfo = 0 := rfl
@[simp] theorem accept_keylen (v : Word) (s : State) : (accept v s).keylen = s.keylen := rfl
@[simp] theorem accept_keyHi (v : Word) (s : State) : (accept v s).keyHi = s.keyHi := rfl
@[simp] theorem accept_keyLo (v : Word) (s : State) : (accept v s).keyLo = s.keyLo := rfl
@[simp] theorem accept_kr (v : Word) (s : State) : (accept v s).kr = s.kr := rfl
@[simp] theorem accept_wk (v : Word) (s : State) : (accept v s).wk = s.wk := rfl
@[simp] theorem accept_rk (v : Word) (s : State) : (accept v s).rk = s.rk := rfl
@[simp] theorem accept_din (v : Word) (s : State) : (accept v s).din = s.din := rfl
@[simp] theorem accept_dout (v : Word) (s : State) : (accept v s).dout = s.dout := rfl
@[simp] theorem accept_alphaLen (v : Word) (s : State) : (accept v s).alphaLen = s.alphaLen := rfl
@[simp] theorem accept_alpha (v : Word) (s : State) : (accept v s).alpha = s.alpha := rfl
@[simp] theorem accept_symLen (v : Word) (s : State) : (accept v s).symLen = s.symLen := rfl
@[simp] theorem accept_sym (v : Word) (s : State) : (accept v s).sym = s.sym := rfl
@[simp] theorem accept_busRdata (v : Word) (s : State) : (accept v s).busRdata = s.busRdata := rfl
@[simp] theorem accept_latLeft (v : Word) (s : State) : (accept v s).latLeft = s.lats.headD 0 := rfl
@[simp] theorem accept_lats (v : Word) (s : State) : (accept v s).lats = s.lats.tail := rfl
@[simp] theorem accept_script (v : Word) (s : State) : (accept v s).script = s.script := rfl
@[simp] theorem accept_draws (v : Word) (s : State) : (accept v s).draws = s.draws := rfl

@[simp] theorem putDout_phase (s : State) (v : Word) : (putDout s v).phase = s.phase := rfl
@[simp] theorem putDout_curCmd (s : State) (v : Word) : (putDout s v).curCmd = s.curCmd := rfl
@[simp] theorem putDout_done (s : State) (v : Word) : (putDout s v).done = s.done := rfl
@[simp] theorem putDout_keyValid (s : State) (v : Word) : (putDout s v).keyValid = s.keyValid := rfl
@[simp] theorem putDout_alphaValid (s : State) (v : Word) : (putDout s v).alphaValid = s.alphaValid := rfl
@[simp] theorem putDout_ovr (s : State) (v : Word) : (putDout s v).ovr = s.ovr := rfl
@[simp] theorem putDout_err (s : State) (v : Word) : (putDout s v).err = s.err := rfl
@[simp] theorem putDout_errinfo (s : State) (v : Word) : (putDout s v).errinfo = s.errinfo := rfl
@[simp] theorem putDout_keylen (s : State) (v : Word) : (putDout s v).keylen = s.keylen := rfl
@[simp] theorem putDout_keyHi (s : State) (v : Word) : (putDout s v).keyHi = s.keyHi := rfl
@[simp] theorem putDout_keyLo (s : State) (v : Word) : (putDout s v).keyLo = s.keyLo := rfl
@[simp] theorem putDout_kr (s : State) (v : Word) : (putDout s v).kr = s.kr := rfl
@[simp] theorem putDout_wk (s : State) (v : Word) : (putDout s v).wk = s.wk := rfl
@[simp] theorem putDout_rk (s : State) (v : Word) : (putDout s v).rk = s.rk := rfl
@[simp] theorem putDout_din (s : State) (v : Word) : (putDout s v).din = s.din := rfl
@[simp] theorem putDout_dout (s : State) (v : Word) : (putDout s v).dout = v := rfl
@[simp] theorem putDout_alphaLen (s : State) (v : Word) : (putDout s v).alphaLen = s.alphaLen := rfl
@[simp] theorem putDout_alpha (s : State) (v : Word) : (putDout s v).alpha = s.alpha := rfl
@[simp] theorem putDout_symLen (s : State) (v : Word) : (putDout s v).symLen = s.symLen := rfl
@[simp] theorem putDout_sym (s : State) (v : Word) : (putDout s v).sym = s.sym := rfl
@[simp] theorem putDout_busRdata (s : State) (v : Word) : (putDout s v).busRdata = s.busRdata := rfl
@[simp] theorem putDout_latLeft (s : State) (v : Word) : (putDout s v).latLeft = s.latLeft := rfl
@[simp] theorem putDout_lats (s : State) (v : Word) : (putDout s v).lats = s.lats := rfl
@[simp] theorem putDout_script (s : State) (v : Word) : (putDout s v).script = s.script := rfl
@[simp] theorem putDout_draws (s : State) (v : Word) : (putDout s v).draws = s.draws := rfl

@[simp] theorem putWk_phase (s : State) (w : KeyReg) : (putWk s w).phase = s.phase := rfl
@[simp] theorem putWk_curCmd (s : State) (w : KeyReg) : (putWk s w).curCmd = s.curCmd := rfl
@[simp] theorem putWk_done (s : State) (w : KeyReg) : (putWk s w).done = s.done := rfl
@[simp] theorem putWk_keyValid (s : State) (w : KeyReg) : (putWk s w).keyValid = s.keyValid := rfl
@[simp] theorem putWk_alphaValid (s : State) (w : KeyReg) : (putWk s w).alphaValid = s.alphaValid := rfl
@[simp] theorem putWk_ovr (s : State) (w : KeyReg) : (putWk s w).ovr = s.ovr := rfl
@[simp] theorem putWk_err (s : State) (w : KeyReg) : (putWk s w).err = s.err := rfl
@[simp] theorem putWk_errinfo (s : State) (w : KeyReg) : (putWk s w).errinfo = s.errinfo := rfl
@[simp] theorem putWk_keylen (s : State) (w : KeyReg) : (putWk s w).keylen = s.keylen := rfl
@[simp] theorem putWk_keyHi (s : State) (w : KeyReg) : (putWk s w).keyHi = s.keyHi := rfl
@[simp] theorem putWk_keyLo (s : State) (w : KeyReg) : (putWk s w).keyLo = s.keyLo := rfl
@[simp] theorem putWk_kr (s : State) (w : KeyReg) : (putWk s w).kr = s.kr := rfl
@[simp] theorem putWk_wk (s : State) (w : KeyReg) : (putWk s w).wk = w := rfl
@[simp] theorem putWk_rk (s : State) (w : KeyReg) : (putWk s w).rk = s.rk := rfl
@[simp] theorem putWk_din (s : State) (w : KeyReg) : (putWk s w).din = s.din := rfl
@[simp] theorem putWk_dout (s : State) (w : KeyReg) : (putWk s w).dout = s.dout := rfl
@[simp] theorem putWk_alphaLen (s : State) (w : KeyReg) : (putWk s w).alphaLen = s.alphaLen := rfl
@[simp] theorem putWk_alpha (s : State) (w : KeyReg) : (putWk s w).alpha = s.alpha := rfl
@[simp] theorem putWk_symLen (s : State) (w : KeyReg) : (putWk s w).symLen = s.symLen := rfl
@[simp] theorem putWk_sym (s : State) (w : KeyReg) : (putWk s w).sym = s.sym := rfl
@[simp] theorem putWk_busRdata (s : State) (w : KeyReg) : (putWk s w).busRdata = s.busRdata := rfl
@[simp] theorem putWk_latLeft (s : State) (w : KeyReg) : (putWk s w).latLeft = s.latLeft := rfl
@[simp] theorem putWk_lats (s : State) (w : KeyReg) : (putWk s w).lats = s.lats := rfl
@[simp] theorem putWk_script (s : State) (w : KeyReg) : (putWk s w).script = s.script := rfl
@[simp] theorem putWk_draws (s : State) (w : KeyReg) : (putWk s w).draws = s.draws := rfl

@[simp] theorem putSchedule_phase (s : State) (sch : Schedule) : (putSchedule s sch).phase = s.phase := rfl
@[simp] theorem putSchedule_curCmd (s : State) (sch : Schedule) : (putSchedule s sch).curCmd = s.curCmd := rfl
@[simp] theorem putSchedule_done (s : State) (sch : Schedule) : (putSchedule s sch).done = s.done := rfl
@[simp] theorem putSchedule_keyValid (s : State) (sch : Schedule) : (putSchedule s sch).keyValid = s.keyValid := rfl
@[simp] theorem putSchedule_alphaValid (s : State) (sch : Schedule) : (putSchedule s sch).alphaValid = s.alphaValid := rfl
@[simp] theorem putSchedule_ovr (s : State) (sch : Schedule) : (putSchedule s sch).ovr = s.ovr := rfl
@[simp] theorem putSchedule_err (s : State) (sch : Schedule) : (putSchedule s sch).err = s.err := rfl
@[simp] theorem putSchedule_errinfo (s : State) (sch : Schedule) : (putSchedule s sch).errinfo = s.errinfo := rfl
@[simp] theorem putSchedule_keylen (s : State) (sch : Schedule) : (putSchedule s sch).keylen = s.keylen := rfl
@[simp] theorem putSchedule_keyHi (s : State) (sch : Schedule) : (putSchedule s sch).keyHi = s.keyHi := rfl
@[simp] theorem putSchedule_keyLo (s : State) (sch : Schedule) : (putSchedule s sch).keyLo = s.keyLo := rfl
@[simp] theorem putSchedule_kr (s : State) (sch : Schedule) : (putSchedule s sch).kr = s.kr := rfl
@[simp] theorem putSchedule_wk (s : State) (sch : Schedule) : (putSchedule s sch).wk = sch.last := rfl
@[simp] theorem putSchedule_rk (s : State) (sch : Schedule) : (putSchedule s sch).rk = sch.rk := rfl
@[simp] theorem putSchedule_din (s : State) (sch : Schedule) : (putSchedule s sch).din = s.din := rfl
@[simp] theorem putSchedule_dout (s : State) (sch : Schedule) : (putSchedule s sch).dout = s.dout := rfl
@[simp] theorem putSchedule_alphaLen (s : State) (sch : Schedule) : (putSchedule s sch).alphaLen = s.alphaLen := rfl
@[simp] theorem putSchedule_alpha (s : State) (sch : Schedule) : (putSchedule s sch).alpha = s.alpha := rfl
@[simp] theorem putSchedule_symLen (s : State) (sch : Schedule) : (putSchedule s sch).symLen = s.symLen := rfl
@[simp] theorem putSchedule_sym (s : State) (sch : Schedule) : (putSchedule s sch).sym = s.sym := rfl
@[simp] theorem putSchedule_busRdata (s : State) (sch : Schedule) : (putSchedule s sch).busRdata = s.busRdata := rfl
@[simp] theorem putSchedule_latLeft (s : State) (sch : Schedule) : (putSchedule s sch).latLeft = s.latLeft := rfl
@[simp] theorem putSchedule_lats (s : State) (sch : Schedule) : (putSchedule s sch).lats = s.lats := rfl
@[simp] theorem putSchedule_script (s : State) (sch : Schedule) : (putSchedule s sch).script = s.script := rfl
@[simp] theorem putSchedule_draws (s : State) (sch : Schedule) : (putSchedule s sch).draws = s.draws := rfl

@[simp] theorem putString_phase (s : State) (str : List Symbol) : (putString s str).phase = s.phase := rfl
@[simp] theorem putString_curCmd (s : State) (str : List Symbol) : (putString s str).curCmd = s.curCmd := rfl
@[simp] theorem putString_done (s : State) (str : List Symbol) : (putString s str).done = s.done := rfl
@[simp] theorem putString_keyValid (s : State) (str : List Symbol) : (putString s str).keyValid = s.keyValid := rfl
@[simp] theorem putString_alphaValid (s : State) (str : List Symbol) : (putString s str).alphaValid = s.alphaValid := rfl
@[simp] theorem putString_ovr (s : State) (str : List Symbol) : (putString s str).ovr = s.ovr := rfl
@[simp] theorem putString_err (s : State) (str : List Symbol) : (putString s str).err = s.err := rfl
@[simp] theorem putString_errinfo (s : State) (str : List Symbol) : (putString s str).errinfo = s.errinfo := rfl
@[simp] theorem putString_keylen (s : State) (str : List Symbol) : (putString s str).keylen = s.keylen := rfl
@[simp] theorem putString_keyHi (s : State) (str : List Symbol) : (putString s str).keyHi = s.keyHi := rfl
@[simp] theorem putString_keyLo (s : State) (str : List Symbol) : (putString s str).keyLo = s.keyLo := rfl
@[simp] theorem putString_kr (s : State) (str : List Symbol) : (putString s str).kr = s.kr := rfl
@[simp] theorem putString_wk (s : State) (str : List Symbol) : (putString s str).wk = s.wk := rfl
@[simp] theorem putString_rk (s : State) (str : List Symbol) : (putString s str).rk = s.rk := rfl
@[simp] theorem putString_din (s : State) (str : List Symbol) : (putString s str).din = s.din := rfl
@[simp] theorem putString_dout (s : State) (str : List Symbol) : (putString s str).dout = s.dout := rfl
@[simp] theorem putString_alphaLen (s : State) (str : List Symbol) : (putString s str).alphaLen = s.alphaLen := rfl
@[simp] theorem putString_alpha (s : State) (str : List Symbol) : (putString s str).alpha = s.alpha := rfl
@[simp] theorem putString_symLen (s : State) (str : List Symbol) : (putString s str).symLen = BitVec.ofNat 7 str.length := rfl
@[simp] theorem putString_busRdata (s : State) (str : List Symbol) : (putString s str).busRdata = s.busRdata := rfl
@[simp] theorem putString_latLeft (s : State) (str : List Symbol) : (putString s str).latLeft = s.latLeft := rfl
@[simp] theorem putString_lats (s : State) (str : List Symbol) : (putString s str).lats = s.lats := rfl
@[simp] theorem putString_script (s : State) (str : List Symbol) : (putString s str).script = s.script := rfl
@[simp] theorem putString_draws (s : State) (str : List Symbol) : (putString s str).draws = s.draws := rfl

@[simp] theorem dropWrite_phase (s : State) : (dropWrite s).phase = s.phase := rfl
@[simp] theorem dropWrite_curCmd (s : State) : (dropWrite s).curCmd = s.curCmd := rfl
@[simp] theorem dropWrite_done (s : State) : (dropWrite s).done = s.done := rfl
@[simp] theorem dropWrite_keyValid (s : State) : (dropWrite s).keyValid = s.keyValid := rfl
@[simp] theorem dropWrite_alphaValid (s : State) : (dropWrite s).alphaValid = s.alphaValid := rfl
@[simp] theorem dropWrite_ovr (s : State) : (dropWrite s).ovr = true := rfl
@[simp] theorem dropWrite_err (s : State) : (dropWrite s).err = s.err := rfl
@[simp] theorem dropWrite_errinfo (s : State) : (dropWrite s).errinfo = s.errinfo := rfl
@[simp] theorem dropWrite_keylen (s : State) : (dropWrite s).keylen = s.keylen := rfl
@[simp] theorem dropWrite_keyHi (s : State) : (dropWrite s).keyHi = s.keyHi := rfl
@[simp] theorem dropWrite_keyLo (s : State) : (dropWrite s).keyLo = s.keyLo := rfl
@[simp] theorem dropWrite_kr (s : State) : (dropWrite s).kr = s.kr := rfl
@[simp] theorem dropWrite_wk (s : State) : (dropWrite s).wk = s.wk := rfl
@[simp] theorem dropWrite_rk (s : State) : (dropWrite s).rk = s.rk := rfl
@[simp] theorem dropWrite_din (s : State) : (dropWrite s).din = s.din := rfl
@[simp] theorem dropWrite_dout (s : State) : (dropWrite s).dout = s.dout := rfl
@[simp] theorem dropWrite_alphaLen (s : State) : (dropWrite s).alphaLen = s.alphaLen := rfl
@[simp] theorem dropWrite_alpha (s : State) : (dropWrite s).alpha = s.alpha := rfl
@[simp] theorem dropWrite_symLen (s : State) : (dropWrite s).symLen = s.symLen := rfl
@[simp] theorem dropWrite_sym (s : State) : (dropWrite s).sym = s.sym := rfl
@[simp] theorem dropWrite_busRdata (s : State) : (dropWrite s).busRdata = s.busRdata := rfl
@[simp] theorem dropWrite_latLeft (s : State) : (dropWrite s).latLeft = s.latLeft := rfl
@[simp] theorem dropWrite_lats (s : State) : (dropWrite s).lats = s.lats := rfl
@[simp] theorem dropWrite_script (s : State) : (dropWrite s).script = s.script := rfl
@[simp] theorem dropWrite_draws (s : State) : (dropWrite s).draws = s.draws := rfl

@[simp] theorem tick_phase (s : State) : (tick s).phase = s.phase := rfl
@[simp] theorem tick_curCmd (s : State) : (tick s).curCmd = s.curCmd := rfl
@[simp] theorem tick_done (s : State) : (tick s).done = s.done := rfl
@[simp] theorem tick_keyValid (s : State) : (tick s).keyValid = s.keyValid := rfl
@[simp] theorem tick_alphaValid (s : State) : (tick s).alphaValid = s.alphaValid := rfl
@[simp] theorem tick_ovr (s : State) : (tick s).ovr = s.ovr := rfl
@[simp] theorem tick_err (s : State) : (tick s).err = s.err := rfl
@[simp] theorem tick_errinfo (s : State) : (tick s).errinfo = s.errinfo := rfl
@[simp] theorem tick_keylen (s : State) : (tick s).keylen = s.keylen := rfl
@[simp] theorem tick_keyHi (s : State) : (tick s).keyHi = s.keyHi := rfl
@[simp] theorem tick_keyLo (s : State) : (tick s).keyLo = s.keyLo := rfl
@[simp] theorem tick_kr (s : State) : (tick s).kr = s.kr := rfl
@[simp] theorem tick_wk (s : State) : (tick s).wk = s.wk := rfl
@[simp] theorem tick_rk (s : State) : (tick s).rk = s.rk := rfl
@[simp] theorem tick_din (s : State) : (tick s).din = s.din := rfl
@[simp] theorem tick_dout (s : State) : (tick s).dout = s.dout := rfl
@[simp] theorem tick_alphaLen (s : State) : (tick s).alphaLen = s.alphaLen := rfl
@[simp] theorem tick_alpha (s : State) : (tick s).alpha = s.alpha := rfl
@[simp] theorem tick_symLen (s : State) : (tick s).symLen = s.symLen := rfl
@[simp] theorem tick_sym (s : State) : (tick s).sym = s.sym := rfl
@[simp] theorem tick_busRdata (s : State) : (tick s).busRdata = s.busRdata := rfl
@[simp] theorem tick_latLeft (s : State) : (tick s).latLeft = s.latLeft - 1 := rfl
@[simp] theorem tick_lats (s : State) : (tick s).lats = s.lats := rfl
@[simp] theorem tick_script (s : State) : (tick s).script = s.script := rfl
@[simp] theorem tick_draws (s : State) : (tick s).draws = s.draws := rfl

@[simp] theorem drawRead_phase (s : State) : (drawRead s).phase = s.phase := rfl
@[simp] theorem drawRead_curCmd (s : State) : (drawRead s).curCmd = s.curCmd := rfl
@[simp] theorem drawRead_done (s : State) : (drawRead s).done = s.done := rfl
@[simp] theorem drawRead_keyValid (s : State) : (drawRead s).keyValid = s.keyValid := rfl
@[simp] theorem drawRead_alphaValid (s : State) : (drawRead s).alphaValid = s.alphaValid := rfl
@[simp] theorem drawRead_ovr (s : State) : (drawRead s).ovr = s.ovr := rfl
@[simp] theorem drawRead_err (s : State) : (drawRead s).err = s.err := rfl
@[simp] theorem drawRead_errinfo (s : State) : (drawRead s).errinfo = s.errinfo := rfl
@[simp] theorem drawRead_keylen (s : State) : (drawRead s).keylen = s.keylen := rfl
@[simp] theorem drawRead_keyHi (s : State) : (drawRead s).keyHi = s.keyHi := rfl
@[simp] theorem drawRead_keyLo (s : State) : (drawRead s).keyLo = s.keyLo := rfl
@[simp] theorem drawRead_kr (s : State) : (drawRead s).kr = s.kr := rfl
@[simp] theorem drawRead_wk (s : State) : (drawRead s).wk = s.wk := rfl
@[simp] theorem drawRead_rk (s : State) : (drawRead s).rk = s.rk := rfl
@[simp] theorem drawRead_din (s : State) : (drawRead s).din = s.din := rfl
@[simp] theorem drawRead_dout (s : State) : (drawRead s).dout = s.dout := rfl
@[simp] theorem drawRead_alphaLen (s : State) : (drawRead s).alphaLen = s.alphaLen := rfl
@[simp] theorem drawRead_alpha (s : State) : (drawRead s).alpha = s.alpha := rfl
@[simp] theorem drawRead_symLen (s : State) : (drawRead s).symLen = s.symLen := rfl
@[simp] theorem drawRead_sym (s : State) : (drawRead s).sym = s.sym := rfl
@[simp] theorem drawRead_busRdata (s : State) : (drawRead s).busRdata = some (Config.freeWord s.draws) := rfl
@[simp] theorem drawRead_latLeft (s : State) : (drawRead s).latLeft = s.latLeft := rfl
@[simp] theorem drawRead_lats (s : State) : (drawRead s).lats = s.lats := rfl
@[simp] theorem drawRead_script (s : State) : (drawRead s).script = s.script := rfl
@[simp] theorem drawRead_draws (s : State) : (drawRead s).draws = s.draws + 1 := rfl

@[simp] theorem resetRegs_phase (s : State) : (resetRegs s).phase = State.reset.phase := rfl
@[simp] theorem resetRegs_curCmd (s : State) : (resetRegs s).curCmd = State.reset.curCmd := rfl
@[simp] theorem resetRegs_done (s : State) : (resetRegs s).done = State.reset.done := rfl
@[simp] theorem resetRegs_keyValid (s : State) : (resetRegs s).keyValid = State.reset.keyValid := rfl
@[simp] theorem resetRegs_alphaValid (s : State) : (resetRegs s).alphaValid = State.reset.alphaValid := rfl
@[simp] theorem resetRegs_ovr (s : State) : (resetRegs s).ovr = State.reset.ovr := rfl
@[simp] theorem resetRegs_err (s : State) : (resetRegs s).err = State.reset.err := rfl
@[simp] theorem resetRegs_errinfo (s : State) : (resetRegs s).errinfo = State.reset.errinfo := rfl
@[simp] theorem resetRegs_keylen (s : State) : (resetRegs s).keylen = State.reset.keylen := rfl
@[simp] theorem resetRegs_keyHi (s : State) : (resetRegs s).keyHi = State.reset.keyHi := rfl
@[simp] theorem resetRegs_keyLo (s : State) : (resetRegs s).keyLo = State.reset.keyLo := rfl
@[simp] theorem resetRegs_kr (s : State) : (resetRegs s).kr = State.reset.kr := rfl
@[simp] theorem resetRegs_wk (s : State) : (resetRegs s).wk = State.reset.wk := rfl
@[simp] theorem resetRegs_rk (s : State) : (resetRegs s).rk = State.reset.rk := rfl
@[simp] theorem resetRegs_din (s : State) : (resetRegs s).din = State.reset.din := rfl
@[simp] theorem resetRegs_dout (s : State) : (resetRegs s).dout = State.reset.dout := rfl
@[simp] theorem resetRegs_alphaLen (s : State) : (resetRegs s).alphaLen = State.reset.alphaLen := rfl
@[simp] theorem resetRegs_alpha (s : State) : (resetRegs s).alpha = State.reset.alpha := rfl
@[simp] theorem resetRegs_symLen (s : State) : (resetRegs s).symLen = State.reset.symLen := rfl
@[simp] theorem resetRegs_sym (s : State) : (resetRegs s).sym = State.reset.sym := rfl
@[simp] theorem resetRegs_busRdata (s : State) : (resetRegs s).busRdata = s.busRdata := rfl
@[simp] theorem resetRegs_latLeft (s : State) : (resetRegs s).latLeft = State.reset.latLeft := rfl
@[simp] theorem resetRegs_lats (s : State) : (resetRegs s).lats = s.lats := rfl
@[simp] theorem resetRegs_script (s : State) : (resetRegs s).script = s.script := rfl
@[simp] theorem resetRegs_draws (s : State) : (resetRegs s).draws = s.draws := rfl

@[simp] theorem succeeded_phase (s : State) : (succeeded s).phase = .idle := rfl
@[simp] theorem succeeded_curCmd (s : State) : (succeeded s).curCmd = s.curCmd := rfl
@[simp] theorem succeeded_done (s : State) : (succeeded s).done = true := rfl
@[simp] theorem succeeded_keyValid (s : State) : (succeeded s).keyValid = s.keyValid := rfl
@[simp] theorem succeeded_alphaValid (s : State) : (succeeded s).alphaValid = s.alphaValid := rfl
@[simp] theorem succeeded_ovr (s : State) : (succeeded s).ovr = s.ovr := rfl
@[simp] theorem succeeded_err (s : State) : (succeeded s).err = .success := rfl
@[simp] theorem succeeded_errinfo (s : State) : (succeeded s).errinfo = 0 := rfl
@[simp] theorem succeeded_keylen (s : State) : (succeeded s).keylen = s.keylen := rfl
@[simp] theorem succeeded_keyHi (s : State) : (succeeded s).keyHi = s.keyHi := rfl
@[simp] theorem succeeded_keyLo (s : State) : (succeeded s).keyLo = s.keyLo := rfl
@[simp] theorem succeeded_kr (s : State) : (succeeded s).kr = s.kr := rfl
@[simp] theorem succeeded_wk (s : State) : (succeeded s).wk = s.wk := rfl
@[simp] theorem succeeded_rk (s : State) : (succeeded s).rk = s.rk := rfl
@[simp] theorem succeeded_din (s : State) : (succeeded s).din = s.din := rfl
@[simp] theorem succeeded_dout (s : State) : (succeeded s).dout = s.dout := rfl
@[simp] theorem succeeded_alphaLen (s : State) : (succeeded s).alphaLen = s.alphaLen := rfl
@[simp] theorem succeeded_alpha (s : State) : (succeeded s).alpha = s.alpha := rfl
@[simp] theorem succeeded_symLen (s : State) : (succeeded s).symLen = s.symLen := rfl
@[simp] theorem succeeded_sym (s : State) : (succeeded s).sym = s.sym := rfl
@[simp] theorem succeeded_busRdata (s : State) : (succeeded s).busRdata = s.busRdata := rfl
@[simp] theorem succeeded_latLeft (s : State) : (succeeded s).latLeft = s.latLeft := rfl
@[simp] theorem succeeded_lats (s : State) : (succeeded s).lats = s.lats := rfl
@[simp] theorem succeeded_script (s : State) : (succeeded s).script = s.script := rfl
@[simp] theorem succeeded_draws (s : State) : (succeeded s).draws = s.draws := rfl

@[simp] theorem failed_phase (s : State) (e : ErrKind) (info : Word) : (failed s e info).phase = .idle := rfl
@[simp] theorem failed_curCmd (s : State) (e : ErrKind) (info : Word) : (failed s e info).curCmd = s.curCmd := rfl
@[simp] theorem failed_done (s : State) (e : ErrKind) (info : Word) : (failed s e info).done = true := rfl
@[simp] theorem failed_keyValid (s : State) (e : ErrKind) (info : Word) : (failed s e info).keyValid = s.keyValid := rfl
@[simp] theorem failed_alphaValid (s : State) (e : ErrKind) (info : Word) : (failed s e info).alphaValid = s.alphaValid := rfl
@[simp] theorem failed_ovr (s : State) (e : ErrKind) (info : Word) : (failed s e info).ovr = s.ovr := rfl
@[simp] theorem failed_err (s : State) (e : ErrKind) (info : Word) : (failed s e info).err = e := rfl
@[simp] theorem failed_errinfo (s : State) (e : ErrKind) (info : Word) : (failed s e info).errinfo = info := rfl
@[simp] theorem failed_keylen (s : State) (e : ErrKind) (info : Word) : (failed s e info).keylen = s.keylen := rfl
@[simp] theorem failed_keyHi (s : State) (e : ErrKind) (info : Word) : (failed s e info).keyHi = s.keyHi := rfl
@[simp] theorem failed_keyLo (s : State) (e : ErrKind) (info : Word) : (failed s e info).keyLo = s.keyLo := rfl
@[simp] theorem failed_kr (s : State) (e : ErrKind) (info : Word) : (failed s e info).kr = s.kr := rfl
@[simp] theorem failed_wk (s : State) (e : ErrKind) (info : Word) : (failed s e info).wk = s.wk := rfl
@[simp] theorem failed_rk (s : State) (e : ErrKind) (info : Word) : (failed s e info).rk = s.rk := rfl
@[simp] theorem failed_din (s : State) (e : ErrKind) (info : Word) : (failed s e info).din = s.din := rfl
@[simp] theorem failed_dout (s : State) (e : ErrKind) (info : Word) : (failed s e info).dout = s.dout := rfl
@[simp] theorem failed_alphaLen (s : State) (e : ErrKind) (info : Word) : (failed s e info).alphaLen = s.alphaLen := rfl
@[simp] theorem failed_alpha (s : State) (e : ErrKind) (info : Word) : (failed s e info).alpha = s.alpha := rfl
@[simp] theorem failed_symLen (s : State) (e : ErrKind) (info : Word) : (failed s e info).symLen = s.symLen := rfl
@[simp] theorem failed_sym (s : State) (e : ErrKind) (info : Word) : (failed s e info).sym = s.sym := rfl
@[simp] theorem failed_busRdata (s : State) (e : ErrKind) (info : Word) : (failed s e info).busRdata = s.busRdata := rfl
@[simp] theorem failed_latLeft (s : State) (e : ErrKind) (info : Word) : (failed s e info).latLeft = s.latLeft := rfl
@[simp] theorem failed_lats (s : State) (e : ErrKind) (info : Word) : (failed s e info).lats = s.lats := rfl
@[simp] theorem failed_script (s : State) (e : ErrKind) (info : Word) : (failed s e info).script = s.script := rfl
@[simp] theorem failed_draws (s : State) (e : ErrKind) (info : Word) : (failed s e info).draws = s.draws := rfl

@[simp] theorem withDin_phase (s : State) (v : Word) : (withDin s v).phase = s.phase := rfl
@[simp] theorem withDin_curCmd (s : State) (v : Word) : (withDin s v).curCmd = s.curCmd := rfl
@[simp] theorem withDin_done (s : State) (v : Word) : (withDin s v).done = s.done := rfl
@[simp] theorem withDin_keyValid (s : State) (v : Word) : (withDin s v).keyValid = s.keyValid := rfl
@[simp] theorem withDin_alphaValid (s : State) (v : Word) : (withDin s v).alphaValid = s.alphaValid := rfl
@[simp] theorem withDin_ovr (s : State) (v : Word) : (withDin s v).ovr = s.ovr := rfl
@[simp] theorem withDin_err (s : State) (v : Word) : (withDin s v).err = s.err := rfl
@[simp] theorem withDin_errinfo (s : State) (v : Word) : (withDin s v).errinfo = s.errinfo := rfl
@[simp] theorem withDin_keylen (s : State) (v : Word) : (withDin s v).keylen = s.keylen := rfl
@[simp] theorem withDin_keyHi (s : State) (v : Word) : (withDin s v).keyHi = s.keyHi := rfl
@[simp] theorem withDin_keyLo (s : State) (v : Word) : (withDin s v).keyLo = s.keyLo := rfl
@[simp] theorem withDin_kr (s : State) (v : Word) : (withDin s v).kr = s.kr := rfl
@[simp] theorem withDin_wk (s : State) (v : Word) : (withDin s v).wk = s.wk := rfl
@[simp] theorem withDin_rk (s : State) (v : Word) : (withDin s v).rk = s.rk := rfl
@[simp] theorem withDin_din (s : State) (v : Word) : (withDin s v).din = v := rfl
@[simp] theorem withDin_dout (s : State) (v : Word) : (withDin s v).dout = s.dout := rfl
@[simp] theorem withDin_alphaLen (s : State) (v : Word) : (withDin s v).alphaLen = s.alphaLen := rfl
@[simp] theorem withDin_alpha (s : State) (v : Word) : (withDin s v).alpha = s.alpha := rfl
@[simp] theorem withDin_symLen (s : State) (v : Word) : (withDin s v).symLen = s.symLen := rfl
@[simp] theorem withDin_sym (s : State) (v : Word) : (withDin s v).sym = s.sym := rfl
@[simp] theorem withDin_busRdata (s : State) (v : Word) : (withDin s v).busRdata = s.busRdata := rfl
@[simp] theorem withDin_latLeft (s : State) (v : Word) : (withDin s v).latLeft = s.latLeft := rfl
@[simp] theorem withDin_lats (s : State) (v : Word) : (withDin s v).lats = s.lats := rfl
@[simp] theorem withDin_script (s : State) (v : Word) : (withDin s v).script = s.script := rfl
@[simp] theorem withDin_draws (s : State) (v : Word) : (withDin s v).draws = s.draws := rfl

@[simp] theorem withDout_phase (s : State) (v : Word) : (withDout s v).phase = s.phase := rfl
@[simp] theorem withDout_curCmd (s : State) (v : Word) : (withDout s v).curCmd = s.curCmd := rfl
@[simp] theorem withDout_done (s : State) (v : Word) : (withDout s v).done = s.done := rfl
@[simp] theorem withDout_keyValid (s : State) (v : Word) : (withDout s v).keyValid = s.keyValid := rfl
@[simp] theorem withDout_alphaValid (s : State) (v : Word) : (withDout s v).alphaValid = s.alphaValid := rfl
@[simp] theorem withDout_ovr (s : State) (v : Word) : (withDout s v).ovr = s.ovr := rfl
@[simp] theorem withDout_err (s : State) (v : Word) : (withDout s v).err = s.err := rfl
@[simp] theorem withDout_errinfo (s : State) (v : Word) : (withDout s v).errinfo = s.errinfo := rfl
@[simp] theorem withDout_keylen (s : State) (v : Word) : (withDout s v).keylen = s.keylen := rfl
@[simp] theorem withDout_keyHi (s : State) (v : Word) : (withDout s v).keyHi = s.keyHi := rfl
@[simp] theorem withDout_keyLo (s : State) (v : Word) : (withDout s v).keyLo = s.keyLo := rfl
@[simp] theorem withDout_kr (s : State) (v : Word) : (withDout s v).kr = s.kr := rfl
@[simp] theorem withDout_wk (s : State) (v : Word) : (withDout s v).wk = s.wk := rfl
@[simp] theorem withDout_rk (s : State) (v : Word) : (withDout s v).rk = s.rk := rfl
@[simp] theorem withDout_din (s : State) (v : Word) : (withDout s v).din = s.din := rfl
@[simp] theorem withDout_dout (s : State) (v : Word) : (withDout s v).dout = v := rfl
@[simp] theorem withDout_alphaLen (s : State) (v : Word) : (withDout s v).alphaLen = s.alphaLen := rfl
@[simp] theorem withDout_alpha (s : State) (v : Word) : (withDout s v).alpha = s.alpha := rfl
@[simp] theorem withDout_symLen (s : State) (v : Word) : (withDout s v).symLen = s.symLen := rfl
@[simp] theorem withDout_sym (s : State) (v : Word) : (withDout s v).sym = s.sym := rfl
@[simp] theorem withDout_busRdata (s : State) (v : Word) : (withDout s v).busRdata = s.busRdata := rfl
@[simp] theorem withDout_latLeft (s : State) (v : Word) : (withDout s v).latLeft = s.latLeft := rfl
@[simp] theorem withDout_lats (s : State) (v : Word) : (withDout s v).lats = s.lats := rfl
@[simp] theorem withDout_script (s : State) (v : Word) : (withDout s v).script = s.script := rfl
@[simp] theorem withDout_draws (s : State) (v : Word) : (withDout s v).draws = s.draws := rfl

end Sys2Proof.Machine
end

