-- ==== Sys2Proof/Laws/Ops.lean ====
section
/-! SUPPORT. What the shared operations can do: every command is one completion of one result, the checks pass or
raise, and a completion is one of two updates. -/

namespace Sys2Proof.Machine

/-- The result of each command's pseudocode: `exec` is its completion (`exec_eq_complete`). -/
def resultOf (i : Instr) (s : State) : CmdResult :=
  match i with
  | .nop => .ok s
  | .keyLoad =>
    match keyFromBytes s.keylen s.keyHi s.keyLo with
    | none => .error .invalidKeySize (s.keylen.setWidth 64)
    | some k => .ok { s with kr := k, keyValid := true }
  | .encrypt =>
    requireKey s <| .ok <| putDout (putSchedule s (schedule s.kr)) (encryptWith (schedule s.kr).rk s.din)
  | .decrypt =>
    requireKey s <| .ok <| putDout (putSchedule s (schedule s.kr)) (decryptWith (schedule s.kr).rk s.din)
  | .wrap =>
    requireKey s <| requireAlphabet s <| .ok <|
      putString (putDout (putSchedule s (schedule s.kr)) (encryptWith (schedule s.kr).rk s.din))
        (encodeString s.alphabet (encryptWith (schedule s.kr).rk s.din))
  | .unwrap =>
    requireKey s <| requireAlphabet s <| withDecoded (decodeString s.alphabet s.symLen s.sym) fun v =>
      .ok <| putDout (putSchedule s (schedule s.kr)) (decryptWith (schedule s.kr).rk v)
  | .encode => requireAlphabet s <| .ok <| putString s (encodeString s.alphabet s.din)
  | .decode => requireAlphabet s <| withDecoded (decodeString s.alphabet s.symLen s.sym) fun v => .ok (putDout s v)
  | .alphaCommit =>
    match alphaCheck s.alphaLen s.alpha with
    | .badAlphaLen b => .error .badAlphaLen (b.setWidth 64)
    | .duplicateSymbol i j c => .error .duplicateSymbol (duplicateInfo i j c)
    | .ok => .ok { s with alphaValid := true }
  | .statusClr => .ok { s with ovr := false }
  | .srst => .ok (resetRegs s)
  | .krClone => requireKey s <| .ok <| putWk s s.kr
  | .krRotate => .ok <| putWk s (krRot s.wk)
  | .krSubst => .ok <| putWk s (krSub s.wk)
  | .krInject n => .ok <| putWk s (krInj s.wk n)
  | .krUpdate n => .ok <| putWk s (krUpd s.wk n)
  | .krExtract => .ok <| putDout s (krTop s.wk)
  | .ksRun => requireKey s <| .ok <| putSchedule s (schedule s.kr)
  | .addkey n => .ok <| putDout s (combine s.din (roundKey s n))
  | .slayer => .ok <| putDout s (slayer s.din sbox)
  | .slayerInv => .ok <| putDout s (slayer s.din sboxInv)
  | .player => .ok <| putDout s (player s.din pTable)
  | .playerInv => .ok <| putDout s (player s.din pInvTable)
  | .rndFwd n => .ok <| putDout s (roundFwd s.din (roundKey s n))
  | .rndInv n => .ok <| putDout s (roundInv s.din (roundKey s n))

/-- Every command answers the next state in which it has completed (R84): no command stops. -/
theorem exec_eq_complete (i : Instr) (s : State) : exec i s = .next (complete s (resultOf i s)) := by
  cases i <;> rfl

/-- A completion without an error, in the terms of the claims. -/
@[simp] theorem complete_ok (s t : State) : complete s (.ok t) = succeeded t := rfl

/-- A completion with an error, in the terms of the claims. -/
@[simp] theorem complete_error (s : State) (e : ErrKind) (info : Word) :
    complete s (.error e info) = failed s e info := rfl

theorem putDout_eq_withDout (s : State) (v : Word) : putDout s v = withDout s v := rfl

/-- A completion is a success of the command's writes, or an error that keeps everything else (R16, R84). -/
theorem complete_cases (s : State) (r : CmdResult) :
    (∃ t, r = .ok t ∧ complete s r = succeeded t) ∨ (∃ e info, r = .error e info ∧ complete s r = failed s e info) := by
  cases r with
  | ok t => exact .inl ⟨t, rfl, rfl⟩
  | error e info => exact .inr ⟨e, info, rfl, rfl⟩

theorem requireKey_of_valid {s : State} (h : s.keyValid = true) (k : CmdResult) : requireKey s k = k := by
  simp [requireKey, h]

theorem requireKey_of_invalid {s : State} (h : s.keyValid = false) (k : CmdResult) :
    requireKey s k = .error .noKey 0 := by
  simp [requireKey, h]

theorem requireAlphabet_of_valid {s : State} (h : s.alphaValid = true) (k : CmdResult) :
    requireAlphabet s k = k := by
  simp [requireAlphabet, h]

theorem requireAlphabet_of_invalid {s : State} (h : s.alphaValid = false) (k : CmdResult) :
    requireAlphabet s k = .error .noAlphabet 0 := by
  simp [requireAlphabet, h]

/-- The check of the key passes, or NO_KEY is raised. -/
theorem requireKey_cases (s : State) (k : CmdResult) :
    (s.keyValid = true ∧ requireKey s k = k) ∨ (s.keyValid = false ∧ requireKey s k = .error .noKey 0) := by
  cases h : s.keyValid
  · exact .inr ⟨rfl, requireKey_of_invalid h k⟩
  · exact .inl ⟨rfl, requireKey_of_valid h k⟩

/-- The check of the alphabet passes, or NO_ALPHABET is raised. -/
theorem requireAlphabet_cases (s : State) (k : CmdResult) :
    (s.alphaValid = true ∧ requireAlphabet s k = k) ∨
      (s.alphaValid = false ∧ requireAlphabet s k = .error .noAlphabet 0) := by
  cases h : s.alphaValid
  · exact .inr ⟨rfl, requireAlphabet_of_invalid h k⟩
  · exact .inl ⟨rfl, requireAlphabet_of_valid h k⟩

/-- A string decodes to a value, or one of the two errors of R271 is raised. -/
theorem withDecoded_cases (d : Decoded) (k : Word → CmdResult) :
    (∃ v, d = .value v ∧ withDecoded d k = k v) ∨
    (∃ n, d = .badSymLen n ∧ withDecoded d k = .error .badSymLen (n.setWidth 64)) ∨
    (∃ p c, d = .invalidSymbol p c ∧ withDecoded d k = .error .invalidSymbol (badSymbolInfo p c)) := by
  cases d with
  | value v => exact .inl ⟨v, rfl, rfl⟩
  | badSymLen n => exact .inr (.inl ⟨n, rfl, rfl⟩)
  | invalidSymbol p c => exact .inr (.inr ⟨p, c, rfl, rfl⟩)

/-- The commands that derive the round keys (R190). -/
def derivesKeys (i : Instr) : Prop :=
  i = .ksRun ∨ i = .encrypt ∨ i = .decrypt ∨ i = .wrap ∨ i = .unwrap

/-- What a command that succeeds leaves as it was, and who may change the rest (R33, R38, R42, R47). SRST, which
changes everything, is `resultOf_srst`. -/
theorem resultOf_ok_frame {i : Instr} {s t : State} (h : resultOf i s = .ok t) (hi : i ≠ .srst) :
    (t.curCmd = s.curCmd ∧ t.keylen = s.keylen ∧ t.keyHi = s.keyHi ∧ t.keyLo = s.keyLo ∧ t.din = s.din ∧
      t.alphaLen = s.alphaLen ∧ t.alpha = s.alpha ∧ t.busRdata = s.busRdata ∧ t.latLeft = s.latLeft ∧
      t.lats = s.lats ∧ t.script = s.script ∧ t.draws = s.draws) ∧
    (t.ovr = s.ovr ∨ i = .statusClr) ∧
    (t.alphaValid = s.alphaValid ∨ (i = .alphaCommit ∧ t.alphaValid = true ∧ alphaCheck s.alphaLen s.alpha = .ok)) ∧
    ((t.kr = s.kr ∧ t.keyValid = s.keyValid) ∨ (i = .keyLoad ∧ t.keyValid = true)) ∧
    (t.rk = s.rk ∨ (derivesKeys i ∧ t.rk = (schedule s.kr).rk)) := by
  cases i
  case srst => exact absurd rfl hi
  case alphaCommit =>
    rw [resultOf] at h
    split at h <;> cases h
    simp [*]
  case keyLoad =>
    rw [resultOf] at h
    split at h <;> cases h
    simp
  all_goals
    simp only [resultOf, requireKey, requireAlphabet, withDecoded] at h
    (repeat' split at h) <;> cases h <;> simp [derivesKeys]

theorem resultOf_srst (s : State) : resultOf .srst s = .ok (resetRegs s) := rfl

/-- No command raises the success code or the reserved code (R311). -/
theorem resultOf_error {i : Instr} {s : State} {e : ErrKind} {info : Word} (h : resultOf i s = .error e info) :
    e ≠ .success ∧ e ≠ .unsupportedBlockSize ∧ e ≠ .illegalCommand := by
  cases i <;> simp only [resultOf, requireKey, requireAlphabet, withDecoded] at h <;>
    (repeat' split at h) <;> cases h <;> simp

end Sys2Proof.Machine
end

