-- ==== Sys2Proof/Laws/Bus.lean ====
section
/-! SUPPORT. The register map as a bijection, the access rights by address, and what one host step can do. -/

namespace Sys2Proof.Machine

/-- The map is one-to-one: the register at the address of r is r (R32). -/
theorem regAt_addr (r : Reg) : regAt r.addr = some r := by
  cases r with
  | rk i => revert i; decide +kernel
  | alpha i => revert i; decide +kernel
  | sym p => revert p; decide +kernel
  | _ => rfl

/-- The register found at an address has that address (R32). -/
theorem addr_of_regAt {a : Addr} {r : Reg} (h : regAt a = some r) : r.addr = a := by
  have key : ∀ a : Addr, (match regAt a with | some r => r.addr == a | none => true) = true := by decide +kernel
  have := key a
  rw [h] at this
  simpa using this

/-- A host cycle, by its ports (R72, R340). -/
theorem busCycle_cases (c : BusCycle) (s : State) :
    (c.rst = true ∧ busCycle c s = resetCycle (tick s) c.re) ∨
    (c.rst = false ∧ c.we = true ∧ c.re = true ∧ busCycle c s = drawRead (tick s)) ∨
    (c.rst = false ∧ c.we = false ∧ c.re = true ∧ busCycle c s = readCycle (tick s) c.addr) ∨
    (c.rst = false ∧ c.we = true ∧ c.re = false ∧ busCycle c s = writeCycle (tick s) c.addr c.wdata) ∨
    (c.rst = false ∧ c.we = false ∧ c.re = false ∧ busCycle c s = { tick s with busRdata := none }) := by
  obtain ⟨rst, we, re, addr, wdata⟩ := c
  cases rst <;> cases we <;> cases re <;> simp [busCycle]

/-- A read changes only the read port and the count of draws (R78). -/
theorem readCycle_eq (s : State) (a : Addr) :
    ∃ v n, readCycle s a = { s with busRdata := some v, draws := n } := by
  rw [readCycle]
  split
  · exact ⟨_, s.draws, rfl⟩
  · exact ⟨_, _, rfl⟩

/-- A read of which no bit is unspecified returns the stored word. -/
theorem readCycle_of_specified {s : State} {a : Addr} (h : unspecifiedBits s a = 0) :
    readCycle s a = { s with busRdata := some (readWord s a) } := if_pos h

/-- A read of which every bit is unspecified is one draw. -/
theorem readCycle_of_unspecified {s : State} {a : Addr} (h : unspecifiedBits s a = BitVec.allOnes 64) :
    readCycle s a = drawRead s := by
  rw [readCycle, if_neg (by rw [h]; decide), h, drawBits, drawRead]
  simp only [BitVec.not_allOnes, BitVec.and_zero, BitVec.and_allOnes, BitVec.zero_or]

/-- A bit of a stored word mixed with a draw under a mask. -/
theorem getLsbD_mixed (m w f : Word) {i : Nat} (hi : i < 64) :
    ((w &&& ~~~m) ||| (f &&& m)).getLsbD i = if m.getLsbD i then f.getLsbD i else w.getLsbD i := by
  simp only [BitVec.getLsbD_or, BitVec.getLsbD_and, BitVec.getLsbD_not, hi, decide_true, Bool.true_and]
  cases m.getLsbD i <;> simp

/-- The value of any read: the stored bits, and a draw at the unspecified ones. -/
theorem readCycle_value (s : State) (a : Addr) :
    ∃ n, readCycle s a =
      { s with
        busRdata := some ((readWord s a &&& ~~~unspecifiedBits s a) ||| (Config.freeWord s.draws &&& unspecifiedBits s a)),
        draws := n } := by
  rw [readCycle]
  split
  · next h =>
    refine ⟨s.draws, ?_⟩
    congr 2
    exact BitVec.eq_of_getLsbD_eq fun i hi => by rw [getLsbD_mixed _ _ _ hi, h]; simp
  · exact ⟨_, rfl⟩

/-- No bit is unspecified while the core is idle (R83 speaks of BUSY = 1 only). -/
theorem unspecifiedBits_of_idle {s : State} (h : s.phase = .idle) (a : Addr) : unspecifiedBits s a = 0 := by
  simp [unspecifiedBits, State.isBusy, h]

/-- No bit of STATUS but KEY_VAR and WK_VAR is ever unspecified (R83). -/
theorem unspecifiedBits_status (s : State) : unspecifiedBits s 0x001 &&& ~~~0x18 = 0 := by
  have h : regAt 0x001 = some .status := regAt_addr .status
  rw [unspecifiedBits, h]
  split
  · cases decode s.curCmd with
    | none => rfl
    | some i => cases i <;> simp [writeBits, statusWriteBits, flagAt]
  · rfl

/-- What a write does to the registers (R76, R77, R80, R81, R82). -/
theorem writeReg_cases (s : State) (a : Addr) (v : Word) :
    (writeReg s a v = s ∧ ∀ r, regAt a = some r → r.access = .ro) ∨
    (∃ r, regAt a = some r ∧ r.access ≠ .ro ∧ s.phase = .busy ∧ writeReg s a v = dropWrite s) ∨
    (regAt a = some .cmd ∧ s.phase = .idle ∧ writeReg s a v = accept v s) ∨
    (∃ r, regAt a = some r ∧ r.access = .rw ∧ s.phase = .idle ∧ writeReg s a v = storeReg s v r) := by
  unfold writeReg
  cases h : regAt a with
  | none => simp
  | some r =>
    cases hp : s.phase <;> cases r <;> simp [Reg.access, State.isBusy, hp]

/-- One step of the host is one bus cycle on the state with its program advanced, or kept for a `wait` that goes on. -/
theorem hostStep_cases (s : State) :
    (s.script = [] ∧ hostStep s = busCycle idleCycle s) ∨
    (∃ c rest, s.script = HostInstr.cycle c :: rest ∧ hostStep s = busCycle c { s with script := rest }) ∨
    (∃ rest p, s.script = HostInstr.wait :: rest ∧
      hostStep s = { busCycle (rdCycle Reg.status.addr) s with script := p }) := by
  unfold hostStep
  split
  · exact .inl ⟨‹_›, rfl⟩
  · exact .inr (.inl ⟨_, _, ‹_›, rfl⟩)
  · rename_i rest h
    by_cases hr : readIdle (busCycle (rdCycle Reg.status.addr) s) = true
    · exact .inr (.inr ⟨rest, rest, h, by simp only [hr, if_true]⟩)
    · exact .inr (.inr ⟨rest, (busCycle (rdCycle Reg.status.addr) s).script, h, by simp only [hr]; rfl⟩)

/-- A step is the completion of the command in flight when it is due, and a host step otherwise (R84). -/
theorem step_cases (s : State) :
    (∃ i, coreReady s = true ∧ decode s.curCmd = some i ∧ step s = .next (complete s (resultOf i s))) ∨
    (coreReady s = true ∧ decode s.curCmd = none ∧ step s = .next (failed s .illegalCommand s.curCmd)) ∨
    (coreReady s = false ∧ step s = .next (hostStep s)) := by
  unfold step
  cases hc : coreReady s with
  | false => simp
  | true =>
    cases hd : decode s.curCmd with
    | none => exact .inr (.inl ⟨rfl, rfl, rfl⟩)
    | some i => exact .inl ⟨i, rfl, rfl, by simpa using exec_eq_complete i s⟩

theorem coreReady_eq_true_iff (s : State) : coreReady s = true ↔ s.phase = .busy ∧ s.latLeft = 0 := by
  simp [coreReady, State.isBusy]

end Sys2Proof.Machine
end

