-- ==== Sys2Proof/Laws/Codec.lean ====
section
/-! SUPPORT. The codec's functions: the division chain gives the base-b digits, the look-up finds an index, the
positional sum is the value of its digits, and the alphabet check finds the first repeated code. -/

namespace Sys2Proof.Machine

/-! ## The division chain (R266, R268) -/

theorem digits_length_pos (b fuel v : Nat) (h : 0 < fuel) : 1 ≤ (digits b fuel v).length := by
  cases fuel with
  | zero => omega
  | succ f => simp [digits]

theorem digits_length_le (b fuel v : Nat) : (digits b fuel v).length ≤ fuel := by
  induction fuel generalizing v with
  | zero => simp [digits]
  | succ f ih =>
    rw [digits]
    split
    · simp
    · simpa using ih (v / b)

theorem digits_lt_base {b : Nat} (hb : 0 < b) (fuel v : Nat) : ∀ d ∈ digits b fuel v, d < b := by
  induction fuel generalizing v with
  | zero => simp [digits]
  | succ f ih =>
    rw [digits]
    intro d hd
    rcases List.mem_cons.1 hd with rfl | hd
    · exact Nat.mod_lt _ hb
    · split at hd
      · simp at hd
      · exact ih _ d hd

/-- Digit p is the one of weight b^p. -/
theorem digits_getElem? (b fuel v p : Nat) (h : p < (digits b fuel v).length) :
    (digits b fuel v)[p]? = some (v / b ^ p % b) := by
  induction fuel generalizing v p with
  | zero => simp [digits] at h
  | succ f ih =>
    rw [digits] at h ⊢
    cases p with
    | zero => simp
    | succ q =>
      split at h
      · simp at h
      · rename_i hv
        simp only [List.length_cons] at h
        rw [if_neg hv, List.getElem?_cons_succ, ih (v / b) q (by omega), Nat.pow_succ', Nat.div_div_eq_div_mul]

/-- The digits reach the value: v < b^L. -/
theorem lt_pow_digits_length {b : Nat} (hb : 2 ≤ b) (fuel v : Nat) (h : v < b ^ fuel) :
    v < b ^ (digits b fuel v).length := by
  induction fuel generalizing v with
  | zero => simpa [digits] using h
  | succ f ih =>
    rw [digits]
    split
    · rename_i hv
      have := (Nat.div_eq_zero_iff).1 hv
      simp; omega
    · have h2 := ih (v / b) (by rw [Nat.pow_succ] at h; exact Nat.div_lt_of_lt_mul (by rwa [Nat.mul_comm] at h))
      rw [List.length_cons, Nat.pow_succ]
      exact (Nat.div_lt_iff_lt_mul (by omega)).1 h2

/-- The length is least: one digit, or b^(L-1) ≤ v. -/
theorem digits_length_least {b : Nat} (hb : 2 ≤ b) (fuel v : Nat) :
    (digits b fuel v).length ≤ 1 ∨ b ^ ((digits b fuel v).length - 1) ≤ v := by
  induction fuel generalizing v with
  | zero => simp [digits]
  | succ f ih =>
    rw [digits]
    split
    · simp
    · rename_i hv
      right
      rw [List.length_cons, Nat.add_sub_cancel]
      rcases ih (v / b) with h | h
      · have h1 : b ^ (digits b f (v / b)).length ≤ b ^ 1 := Nat.pow_le_pow_right (by omega) h
        have h2 : b ≤ v := by
          by_contra hlt
          exact hv (Nat.div_eq_of_lt (by omega))
        simpa using le_trans h1 (by simpa using h2)
      · rcases Nat.eq_zero_or_pos (digits b f (v / b)).length with h0 | h0
        · rw [h0]; simp
          rcases Nat.eq_zero_or_pos v with rfl | h
          · simp at hv
          · exact h
        · have h3 := Nat.mul_le_mul_right b h
          rw [← Nat.pow_succ, Nat.succ_eq_add_one, Nat.sub_add_cancel h0] at h3
          exact le_trans h3 (Nat.div_mul_le_self v b)

/-- The value of the digits is the value. -/
theorem ofDigits_digits {b : Nat} (fuel v : Nat) (h : v < b ^ fuel) :
    Nat.ofDigits b (digits b fuel v) = v := by
  induction fuel generalizing v with
  | zero => simp [digits] at h ⊢; omega
  | succ f ih =>
    rw [digits, Nat.ofDigits_cons]
    split
    · rename_i hv
      have := Nat.div_add_mod v b
      rw [hv] at this
      simp at this ⊢; omega
    · rw [ih (v / b) (by rw [Nat.pow_succ] at h; exact Nat.div_lt_of_lt_mul (by rwa [Nat.mul_comm] at h))]
      exact Nat.mod_add_div v b

/-- Every 64-bit value has at most 64 digits in any base ≥ 2. -/
theorem toNat_lt_base_pow {b : Nat} (hb : 2 ≤ b) (n : Word) : n.toNat < b ^ maxString :=
  lt_of_lt_of_le n.isLt (Nat.pow_le_pow_left hb 64)

/-! ## Look-up and the positional sum (R270, R271) -/

/-- In an alphabet without repeats the look-up of entry d gives d. -/
theorem idxOf_getD {alphabet : List Symbol} (hn : alphabet.Nodup) {d : Nat} (hd : d < alphabet.length) :
    idxOf alphabet (alphabet.getD d 0) = some d := by
  rw [idxOf, List.findIdx?_eq_some_iff_getElem]
  refine ⟨hd, by simp [List.getD_eq_getElem?_getD, hd], fun j hj => ?_⟩
  simp only [List.getD_eq_getElem?_getD, List.getElem?_eq_getElem hd, Option.getD_some, beq_iff_eq]
  intro h
  exact absurd ((List.Nodup.getElem_inj_iff hn).1 h) (by omega)

theorem idxOf_eq_none_iff {alphabet : List Symbol} {c : Symbol} : idxOf alphabet c = none ↔ c ∉ alphabet := by
  rw [idxOf, List.findIdx?_eq_none_iff]
  constructor
  · intro h hc; simpa using h c hc
  · intro h x hx
    rw [beq_eq_false_iff_ne]
    rintro rfl
    exact h hx

/-- No symbol is invalid when every symbol stands in the alphabet. -/
theorem firstInvalid_eq_none_iff (alphabet str : List Symbol) (p : Nat) :
    firstInvalid alphabet p str = none ↔ ∀ c ∈ str, c ∈ alphabet := by
  induction str generalizing p with
  | nil => simp [firstInvalid]
  | cons c str ih =>
    rw [firstInvalid]
    split
    · rename_i h
      have := idxOf_eq_none_iff.1 h
      simp [this]
    · rename_i i h
      have : c ∈ alphabet := by
        by_contra hc
        rw [idxOf_eq_none_iff.2 hc] at h
        cases h
      simp [ih, this]

/-- What an invalid symbol's report says: its position, its code, and that every symbol before it is valid. -/
theorem firstInvalid_eq_some {alphabet str : List Symbol} {p q : Nat} {c : Symbol}
    (h : firstInvalid alphabet p str = some (q, c)) :
    ∃ i, q = p + i ∧ str[i]? = some c ∧ c ∉ alphabet ∧ ∀ j < i, ∀ d, str[j]? = some d → d ∈ alphabet := by
  induction str generalizing p with
  | nil => simp [firstInvalid] at h
  | cons a str ih =>
    rw [firstInvalid] at h
    split at h
    · rename_i hn
      simp only [Option.some.injEq, Prod.mk.injEq] at h
      exact ⟨0, by omega, by simp [h.2], h.2 ▸ idxOf_eq_none_iff.1 hn, by omega⟩
    · rename_i k hk
      obtain ⟨i, h1, h2, h3, h4⟩ := ih h
      refine ⟨i + 1, by omega, by simpa using h2, h3, fun j hj d hd => ?_⟩
      cases j with
      | zero =>
        simp only [List.getElem?_cons_zero, Option.some.injEq] at hd
        subst hd
        by_contra hc
        rw [idxOf_eq_none_iff.2 hc] at hk
        cases hk
      | succ j => exact h4 j (by omega) d (by simpa using hd)

/-- The positional sum is the value of the indices as digits, from weight b^p on, modulo 2^64. -/
theorem positionalSum_eq (alphabet str : List Symbol) (p : Nat) (v : Word) :
    positionalSum alphabet p str v = v + BitVec.ofNat 64
      (alphabet.length ^ p * Nat.ofDigits alphabet.length (str.map fun c => (idxOf alphabet c).getD 0)) := by
  induction str generalizing p v with
  | nil => simp [positionalSum]
  | cons c str ih =>
    rw [positionalSum, ih, List.map_cons, Nat.ofDigits_cons, Nat.mul_add, ← Nat.mul_assoc, ← Nat.pow_succ,
      BitVec.add_assoc, BitVec.ofNat_add, ← BitVec.ofNat_mul, Nat.mul_comm]

/-- R271 on the digits of a value: decoding the symbols of digits gives the value of the digits. -/
theorem positionalSum_digits {alphabet : List Symbol} (hn : alphabet.Nodup) {ds : List Nat}
    (hd : ∀ d ∈ ds, d < alphabet.length) :
    positionalSum alphabet 0 (ds.map fun d => alphabet.getD d 0) 0 =
      BitVec.ofNat 64 (Nat.ofDigits alphabet.length ds) := by
  rw [positionalSum_eq, List.map_map]
  have : ds.map ((fun c => (idxOf alphabet c).getD 0) ∘ fun d => alphabet.getD d 0) = ds := by
    conv_rhs => rw [← List.map_id ds]
    refine List.map_congr_left fun d h => ?_
    simp only [Function.comp]
    rw [idxOf_getD hn (hd d h)]
    rfl
  rw [this]
  simp

/-- R273 on lists: the sum over an encoded string is the encoded value. -/
theorem positionalSum_encodeString {alphabet : List Symbol} (hn : alphabet.Nodup) (hb : 2 ≤ alphabet.length)
    (n : Word) : positionalSum alphabet 0 (encodeString alphabet n) 0 = n := by
  rw [encodeString, positionalSum_digits hn (digits_lt_base (by omega) _ _),
    ofDigits_digits _ _ (toNat_lt_base_pow hb n)]
  simp

theorem encodeString_mem {alphabet : List Symbol} (hb : 2 ≤ alphabet.length) (n : Word) :
    ∀ c ∈ encodeString alphabet n, c ∈ alphabet := by
  intro c hc
  obtain ⟨d, hd, rfl⟩ := List.mem_map.1 hc
  have := digits_lt_base (b := alphabet.length) (by omega) _ _ d hd
  simp [List.getD_eq_getElem?_getD, this]

theorem encodeString_length (alphabet : List Symbol) (n : Word) :
    1 ≤ (encodeString alphabet n).length ∧ (encodeString alphabet n).length ≤ 64 := by
  rw [encodeString, List.length_map]
  exact ⟨digits_length_pos _ _ _ (by decide), digits_length_le _ _ _⟩

/-! ## The string buffer -/

/-- After a string is written, the string read back is that string. -/
theorem putString_take (s : State) {str : List Symbol} (h : str.length ≤ 64) :
    (putString s str).sym.toList.take (putString s str).symLen.toNat = str := by
  have hl : (putString s str).symLen.toNat = str.length := by
    rw [putString_symLen, BitVec.toNat_ofNat]; omega
  rw [hl]
  apply List.ext_getElem
  · simp [h]
  · intro i h1 h2
    simp [putString, h2]

/-! ## The alphabet check (R260, R261) -/

theorem firstDuplicate_eq_none_iff (seen rest : List Symbol) :
    firstDuplicate seen rest = none ↔ rest.Nodup ∧ ∀ c ∈ rest, c ∉ seen := by
  induction rest generalizing seen with
  | nil => simp [firstDuplicate]
  | cons c rest ih =>
    rw [firstDuplicate]
    have hseen : seen.findIdx? (· == c) = none ↔ c ∉ seen := idxOf_eq_none_iff
    split
    · rename_i i h
      have hc : c ∈ seen := by
        by_contra hc
        rw [hseen.2 hc] at h
        cases h
      simp [hc]
    · rename_i h
      have hc := hseen.1 h
      rw [ih, List.nodup_cons]
      simp only [List.mem_append, List.mem_cons, not_or, List.not_mem_nil, or_false]
      constructor
      · rintro ⟨h1, h2⟩
        exact ⟨⟨fun hm => (h2 c hm).2 rfl, h1⟩, by
          rintro d (rfl | hd)
          · exact hc
          · exact (h2 d hd).1⟩
      · rintro ⟨⟨h1, h2⟩, h3⟩
        refine ⟨h2, fun d hd => ⟨h3 d (.inr hd), ?_⟩⟩
        rintro rfl
        exact h1 hd

/-- A report of the check names the first repeated code: its later index j is least, and its first index i is. -/
theorem firstDuplicate_eq_some {seen rest : List Symbol} {i j : Nat} {c : Symbol} (hs : seen.Nodup)
    (h : firstDuplicate seen rest = some (i, j, c)) :
    i < j ∧ (seen ++ rest)[i]? = some c ∧ (seen ++ rest)[j]? = some c ∧ ((seen ++ rest).take j).Nodup := by
  induction rest generalizing seen with
  | nil => simp [firstDuplicate] at h
  | cons a rest ih =>
    rw [firstDuplicate] at h
    split at h
    · rename_i k hk
      simp only [Option.some.injEq, Prod.mk.injEq] at h
      obtain ⟨rfl, rfl, rfl⟩ := h
      obtain ⟨h1, h2, -⟩ := List.findIdx?_eq_some_iff_getElem.1 hk
      refine ⟨h1, ?_, by simp, by simpa using hs⟩
      rw [List.getElem?_append_left h1, List.getElem?_eq_getElem h1]
      simpa using h2
    · rename_i hk
      have ha : a ∉ seen := idxOf_eq_none_iff.1 hk
      have := ih (seen := seen ++ [a]) (by
        rw [List.nodup_append]
        exact ⟨hs, by simp, by simpa using fun b hb => (ne_of_mem_of_not_mem hb ha)⟩) h
      simpa using this

theorem State.alphabet_length (s : State) (h : s.alphaLen.toNat ≤ 256) : s.alphabet.length = s.alphaLen.toNat := by
  simp [State.alphabet, h]

theorem State.alphabet_getElem? (s : State) {i : Nat} (hi : i < s.alphaLen.toNat) (h : i < 256) :
    s.alphabet[i]? = some s.alpha[i] := by
  simp [State.alphabet, hi, h]

/-- A legal alphabet as a list has no repeats. -/
theorem legalAlphabet_iff (s : State) :
    LegalAlphabet s ↔ 2 ≤ s.alphaLen.toNat ∧ s.alphaLen.toNat ≤ 256 ∧ s.alphabet.Nodup := by
  rw [LegalAlphabet]
  refine and_congr_right fun h2 => and_congr_right fun h256 => ?_
  rw [List.nodup_iff_getElem?_ne_getElem?]
  rw [s.alphabet_length h256]
  constructor
  · intro h i j hij hj
    rw [s.alphabet_getElem? (by omega) (by omega), s.alphabet_getElem? hj (by omega)]
    simpa using h ⟨i, by omega⟩ ⟨j, by omega⟩ hij hj
  · intro h i j hij hj
    have := h i.val j.val hij hj
    rw [s.alphabet_getElem? (by omega) i.isLt, s.alphabet_getElem? hj j.isLt] at this
    simpa using this

/-- R261: the check passes exactly the legal alphabets. -/
theorem alphaCheck_eq_ok_iff (s : State) : alphaCheck s.alphaLen s.alpha = .ok ↔ LegalAlphabet s := by
  rw [legalAlphabet_iff, alphaCheck]
  split
  · rename_i h
    simp only [maxAlphabet] at h
    simp only [reduceCtorEq, false_iff]
    omega
  · rename_i h
    simp only [maxAlphabet] at h
    have hd := firstDuplicate_eq_none_iff [] (s.alpha.toList.take s.alphaLen.toNat)
    simp only [List.not_mem_nil, not_false_eq_true, implies_true, and_true] at hd
    split
    · rename_i i j c hs
      rw [hs] at hd
      simp only [reduceCtorEq, false_iff] at hd ⊢
      exact fun hl => hd hl.2.2
    · rename_i hs
      simp only [true_iff]
      exact ⟨by omega, by omega, hd.1 hs⟩

end Sys2Proof.Machine
end

