-- ==== Sys2Proof/Laws/PerInstr.lean ====
section
/-! SUPPORT. One statement for every command as syntax: the word its encoder writes is well formed as a word
(30_encoding.md R105) and as a command (R102). The checks and the encoder are written apart, so the two agree. -/

namespace Sys2Proof.Laws.LegalWord

/-- The command is well formed, and so are the fields of its word. -/
def Statement (i : Instr) : Prop := i.wf = true ∧ (CmdFields.ofWord (encode i)).wf = true

theorem nop : Statement .nop := by unfold Statement; decide

theorem keyLoad : Statement .keyLoad := by unfold Statement; decide

theorem encrypt : Statement .encrypt := by unfold Statement; decide

theorem decrypt : Statement .decrypt := by unfold Statement; decide

theorem wrap : Statement .wrap := by unfold Statement; decide

theorem unwrap : Statement .unwrap := by unfold Statement; decide

theorem encode : Statement .encode := by unfold Statement; decide

theorem decode : Statement .decode := by unfold Statement; decide

theorem alphaCommit : Statement .alphaCommit := by unfold Statement; decide

theorem statusClr : Statement .statusClr := by unfold Statement; decide

theorem srst : Statement .srst := by unfold Statement; decide

theorem krClone : Statement .krClone := by unfold Statement; decide

theorem krRotate : Statement .krRotate := by unfold Statement; decide

theorem krSubst : Statement .krSubst := by unfold Statement; decide

theorem krInject (n : BitVec 5) : Statement (.krInject n) := by revert n; unfold Statement; decide

theorem krUpdate (n : BitVec 5) : Statement (.krUpdate n) := by revert n; unfold Statement; decide

theorem krExtract : Statement .krExtract := by unfold Statement; decide

theorem ksRun : Statement .ksRun := by unfold Statement; decide

theorem addkey (n : BitVec 5) : Statement (.addkey n) := by revert n; unfold Statement; decide

theorem slayer : Statement .slayer := by unfold Statement; decide

theorem slayerInv : Statement .slayerInv := by unfold Statement; decide

theorem player : Statement .player := by unfold Statement; decide

theorem playerInv : Statement .playerInv := by unfold Statement; decide

theorem rndFwd (n : BitVec 5) : Statement (.rndFwd n) := by revert n; unfold Statement; decide

theorem rndInv (n : BitVec 5) : Statement (.rndInv n) := by revert n; unfold Statement; decide

end Sys2Proof.Laws.LegalWord
end

