-- ==== Sys2Proof/Laws/Tables.lean ====
section
/-! SUPPORT. The layers bit by bit and nibble by nibble, and that each layer, round and cipher undoes its inverse. -/

namespace Sys2Proof.Machine

/-- A bit of an OR-accumulation is set when it is set in one of the parts. -/
theorem getLsbD_foldl_or (f : Nat → Word) (l : List Nat) (r : Word) (j : Nat) :
    (l.foldl (fun r i => r ||| f i) r).getLsbD j = (r.getLsbD j || l.any fun i => (f i).getLsbD j) := by
  induction l generalizing r with
  | nil => simp
  | cons a l ih => simp [ih, Bool.or_assoc]

theorem sboxInv_sbox : ∀ x : Nibble, sboxInv (sbox x) = x := by decide

theorem sbox_sboxInv : ∀ x : Nibble, sbox (sboxInv x) = x := by decide

/-- Bit 4i + k of the substitution layer is bit k of the table's entry for nibble i. -/
theorem slayer_getLsbD (x : Word) (t : Nibble → Nibble) {i k : Nat} (hi : i < 16) (hk : k < 4) :
    (slayer x t).getLsbD (4 * i + k) = (t (x.extractLsb' (4 * i) 4)).getLsbD k := by
  rw [slayer, getLsbD_foldl_or, Bool.eq_iff_iff]
  simp only [BitVec.ofNat_eq_ofNat, BitVec.getLsbD_zero, Bool.false_or, List.any_eq_true, List.mem_range,
    BitVec.getLsbD_shiftLeft, BitVec.getLsbD_setWidth, Bool.and_eq_true, decide_eq_true_eq, Bool.not_eq_true',
    decide_eq_false_iff_not]
  constructor
  · rintro ⟨a, ha, ⟨-, h1⟩, -, h2⟩
    have := BitVec.lt_of_getLsbD h2
    obtain rfl : a = i := by omega
    rwa [Nat.add_sub_cancel_left] at h2
  · intro h
    exact ⟨i, hi, by omega, by omega, by rwa [Nat.add_sub_cancel_left]⟩

/-- R146: nibble i of the substitution layer is the table's entry for nibble i. -/
theorem slayer_nibble (x : Word) (t : Nibble → Nibble) {i : Nat} (hi : i < 16) :
    (slayer x t).extractLsb' (4 * i) 4 = t (x.extractLsb' (4 * i) 4) := by
  apply BitVec.eq_of_getLsbD_eq
  intro k hk
  rw [BitVec.getLsbD_extractLsb', slayer_getLsbD x t hi hk]
  simp [hk]

/-- Two words are equal when their sixteen nibbles are. -/
theorem eq_of_nibbles {x y : Word} (h : ∀ i < 16, x.extractLsb' (4 * i) 4 = y.extractLsb' (4 * i) 4) : x = y := by
  apply BitVec.eq_of_getLsbD_eq
  intro j hj
  have := congrArg (BitVec.getLsbD · (j % 4)) (h (j / 4) (by omega))
  simp only [BitVec.getLsbD_extractLsb', Nat.div_add_mod] at this
  simpa [show j % 4 < 4 by omega] using this

theorem slayer_slayer (x : Word) (t u : Nibble → Nibble) (h : ∀ y, u (t y) = y) : slayer (slayer x t) u = x :=
  eq_of_nibbles fun i hi => by rw [slayer_nibble _ _ hi, slayer_nibble _ _ hi, h]

/-- Bit j of the permutation layer: some source bit i is set and moves to j. -/
theorem player_getLsbD (x : Word) (t : List Nat) {j : Nat} (hj : j < 64) :
    (player x t).getLsbD j = (List.range 64).any fun i => decide (t.getD i 0 = j) && x.getLsbD i := by
  rw [player, getLsbD_foldl_or]
  simp only [BitVec.ofNat_eq_ofNat, BitVec.getLsbD_zero, Bool.false_or]
  congr 1
  funext i
  rw [Bool.eq_iff_iff]
  simp only [BitVec.getLsbD_shiftLeft, BitVec.getLsbD_setWidth, BitVec.getLsbD_extractLsb', Bool.and_eq_true,
    decide_eq_true_eq, Bool.not_eq_true', decide_eq_false_iff_not]
  constructor
  · rintro ⟨⟨-, h1⟩, -, h2, h3⟩
    have h4 : j - t.getD i 0 = 0 := by omega
    rw [h4] at h3
    exact ⟨by omega, by simpa using h3⟩
  · rintro ⟨h1, h2⟩
    subst h1
    simpa only [hj, Nat.lt_irrefl, Nat.sub_self, true_and, not_false_eq_true, Nat.zero_lt_one, Nat.add_zero,
      show (0 : Nat) < 64 by omega, and_true] using h2

/-- R147: with a table that sends i to j and no other bit there, bit j of the result is bit i of the source. -/
theorem player_moves (x : Word) (t : List Nat) {i j : Nat} (hi : i < 64) (hj : j < 64) (ht : t.getD i 0 = j)
    (hinj : ∀ k < 64, t.getD k 0 = j → k = i) : (player x t).getLsbD j = x.getLsbD i := by
  rw [player_getLsbD x t hj, Bool.eq_iff_iff]
  simp only [List.any_eq_true, List.mem_range, Bool.and_eq_true, decide_eq_true_eq]
  constructor
  · rintro ⟨k, hk, h1, h2⟩
    rwa [hinj k hk h1] at h2
  · exact fun h => ⟨i, hi, ht, h⟩

theorem pTable_spec : ∀ i < 64, pTable.getD i 0 = 16 * (i % 4) + i / 4 := by decide

theorem pInvTable_spec : ∀ j < 64, pInvTable.getD j 0 = 4 * (j % 16) + j / 16 := by decide

/-- R143, R147: bit i goes to bit P[i]. -/
theorem player_pTable (x : Word) {i : Nat} (hi : i < 64) :
    (player x pTable).getLsbD (16 * (i % 4) + i / 4) = x.getLsbD i :=
  player_moves x pTable hi (by omega) (pTable_spec i hi) fun k hk h => by rw [pTable_spec k hk] at h; omega

/-- R144, R147: bit j goes to bit P⁻¹[j]. -/
theorem player_pInvTable (x : Word) {j : Nat} (hj : j < 64) :
    (player x pInvTable).getLsbD (4 * (j % 16) + j / 16) = x.getLsbD j :=
  player_moves x pInvTable hj (by omega) (pInvTable_spec j hj) fun k hk h => by
    rw [pInvTable_spec k hk] at h; omega

theorem playerInv_player (x : Word) : player (player x pTable) pInvTable = x := by
  apply BitVec.eq_of_getLsbD_eq
  intro i hi
  have h := player_pInvTable (player x pTable) (j := 16 * (i % 4) + i / 4) (by omega)
  rw [player_pTable x hi, show 4 * ((16 * (i % 4) + i / 4) % 16) + (16 * (i % 4) + i / 4) / 16 = i by omega] at h
  exact h

theorem player_playerInv (x : Word) : player (player x pInvTable) pTable = x := by
  apply BitVec.eq_of_getLsbD_eq
  intro i hi
  have h := player_pTable (player x pInvTable) (i := 4 * (i % 16) + i / 16) (by omega)
  rw [player_pInvTable x hi, show 16 * ((4 * (i % 16) + i / 16) % 4) + (4 * (i % 16) + i / 16) / 4 = i by omega] at h
  exact h

theorem combine_combine (x k : Word) : combine (combine x k) k = x := by
  simp [combine]

/-- R213. -/
theorem roundInv_roundFwd (x k : Word) : roundInv (roundFwd x k) k = x := by
  rw [roundInv, roundFwd, playerInv_player, slayer_slayer _ _ _ sboxInv_sbox, combine_combine]

theorem roundFwd_roundInv (x k : Word) : roundFwd (roundInv x k) k = x := by
  rw [roundFwd, roundInv, combine_combine, slayer_slayer _ _ _ sbox_sboxInv, player_playerInv]

/-- Undoing a fold of rounds from the last to the first. -/
theorem foldr_foldl_undo (f g : Word → Word → Word) (h : ∀ x k, g (f x k) k = x) (ks : List Word) (x : Word) :
    ks.foldr (fun k st => g st k) (ks.foldl f x) = x := by
  induction ks generalizing x with
  | nil => rfl
  | cons k ks ih => simp [ih, h]

/-- The rounds in order undo the inverse rounds in reverse order. -/
theorem foldl_foldr_undo (f g : Word → Word → Word) (h : ∀ x k, f (g x k) k = x) (ks : List Word) (x : Word) :
    ks.foldl f (ks.foldr (fun k st => g st k) x) = x := by
  induction ks generalizing x with
  | nil => rfl
  | cons k ks ih => simp [ih, h]

/-- R243 for any round keys. -/
theorem decryptWith_encryptWith (rk : Vector Word 32) (x : Word) : decryptWith rk (encryptWith rk x) = x := by
  rw [decryptWith, encryptWith, combine_combine, foldr_foldl_undo _ _ roundInv_roundFwd]

theorem encryptWith_decryptWith (rk : Vector Word 32) (y : Word) : encryptWith rk (decryptWith rk y) = y := by
  rw [encryptWith, decryptWith, foldl_foldr_undo _ _ roundFwd_roundInv, combine_combine]

end Sys2Proof.Machine
end

