-- ==== Sys2Proof/Tests/Slice0.lean ====
section
/-! SUPPORT. Tests whose expected results come from spec/95_test_vectors.md, the refusals of WellFormed, words written
out from the encodings of 30_encoding.md R104, and for each obligation with hypotheses a state that meets them. -/

open Sys2Proof Sys2Proof.Machine Sys2Proof.Claims

namespace Sys2Proof.Tests

-- One theorem at a time: each kernel evaluation in a thread of its own exhausts the sandbox's stack space.
set_option Elab.async false

/-- The step answers a next state that p holds of. -/
def nextIs (o : Host.Outcome State Fault Refusal) (p : State → Bool) : Bool :=
  match o with
  | .next t => p t
  | .fault _ | .refused _ => false

/-- The command completes in a state whose STATUS and ERRINFO are the ones a vector gives. -/
def endsWith (o : Host.Outcome State Fault Refusal) (status errinfo : Word) : Bool :=
  nextIs o fun t => readWord t 0x001 == status && readWord t 0x003 == errinfo

/-- The reset state with a key loaded. -/
def keyed (k : KeyReg) : State := { State.reset with kr := k, keyValid := true }

/-- The reset state with WK set. -/
def walking (w : KeyReg) : State := { State.reset with wk := w }

/-- The reset state with DIN set. -/
def block (v : Word) : State := withDin State.reset v

/-- RK[1], RK[2], RK[31] of the zero V80 key (95_test_vectors.md V30), DIN set. -/
def scheduled (v : Word) : State :=
  { block v with
    rk := ((State.reset.rk.set 1 0xC000000000000000).set 2 0x5000180000000001).set 31 0x6DAB31744F41D700 }

/-- s with a string in SYM. -/
def withString (cs : List Symbol) (s : State) : State :=
  { s with sym := Vector.ofFn fun p : Fin 64 => cs.getD p.val 0, symLen := BitVec.ofNat 7 cs.length }

/-- s with a table in ALPHA, committed or not. -/
def withTable (cs : List Symbol) (valid : Bool) (s : State) : State :=
  { s with
    alpha := Vector.ofFn fun i : Fin 256 => cs.getD i.val 0, alphaLen := BitVec.ofNat 9 cs.length, alphaValid := valid }

/-- SYM holds exactly the string cs. -/
def holdsString (cs : List Symbol) (t : State) : Bool :=
  t.symLen == BitVec.ofNat 7 cs.length && t.sym.toList.take cs.length == cs

/-- 0x0123456789ABCDEF0123, the V80 key of the vectors. -/
def k80 : BitVec 80 := 0x0123456789ABCDEF0123

/-- 0x0123456789ABCDEF0123456789ABCDEF, the V128 key of the vectors. -/
def k128 : BitVec 128 := 0x0123456789ABCDEF0123456789ABCDEF

/-- s with the word v accepted and due. -/
def due (v : Word) (s : State) : State := s.withFetchWord 64 v.toNat

/-! ## Ill-formed words: one for each check of R105 -/

/-- R105 (a). -/
theorem test_refuses_rsv_nonzero : (CmdFields.ofWord 0x0000000000010000).wf = false ∧
    decode 0x0000000000010000 = none := by decide

/-- R105 (a). -/
theorem test_refuses_rsv_top_bit : (CmdFields.ofWord 0x8000000000000000).wf = false ∧
    decode 0x8000000000000000 = none := by decide

/-- R105 (b). -/
theorem test_refuses_opc_reserved_09 : (CmdFields.ofWord 0x0000000000000009).wf = false ∧
    decode 0x0000000000000009 = none := by decide

/-- R105 (b). -/
theorem test_refuses_opc_reserved_17 : (CmdFields.ofWord 0x0000000000000017).wf = false ∧
    decode 0x0000000000000017 = none := by decide

/-- R105 (b). -/
theorem test_refuses_opc_reserved_27 : (CmdFields.ofWord 0x0000000000000027).wf = false ∧
    decode 0x0000000000000027 = none := by decide

/-- R105 (c). -/
theorem test_refuses_arg_of_none : (CmdFields.ofWord 0x0000000000000102).wf = false ∧
    decode 0x0000000000000102 = none := by decide

/-- R105 (d). -/
theorem test_refuses_arg_of_idx5 : (CmdFields.ofWord 0x0000000000002013).wf = false ∧
    decode 0x0000000000002013 = none := by decide

/-! ## Words written out from R104 -/

theorem test_decodes_facade_words :
    decode 0x0000000000000000 = some .nop ∧ decode 0x0000000000000001 = some .keyLoad ∧
    decode 0x0000000000000002 = some .encrypt ∧ decode 0x0000000000000003 = some .decrypt ∧
    decode 0x0000000000000004 = some .wrap ∧ decode 0x0000000000000005 = some .unwrap ∧
    decode 0x0000000000000006 = some .encode ∧ decode 0x0000000000000007 = some .decode ∧
    decode 0x0000000000000008 = some .alphaCommit ∧ decode 0x000000000000000E = some .statusClr ∧
    decode 0x000000000000000F = some .srst := by decide

theorem test_decodes_key_register_words :
    decode 0x0000000000000010 = some .krClone ∧ decode 0x0000000000000011 = some .krRotate ∧
    decode 0x0000000000000012 = some .krSubst ∧ decode 0x0000000000000013 = some (.krInject 0) ∧
    decode 0x0000000000001F13 = some (.krInject 31) ∧ decode 0x0000000000000214 = some (.krUpdate 2) ∧
    decode 0x0000000000000015 = some .krExtract ∧ decode 0x0000000000000016 = some .ksRun := by decide

theorem test_decodes_round_words :
    decode 0x0000000000001F20 = some (.addkey 31) ∧ decode 0x0000000000000021 = some .slayer ∧
    decode 0x0000000000000022 = some .slayerInv ∧ decode 0x0000000000000023 = some .player ∧
    decode 0x0000000000000024 = some .playerInv ∧ decode 0x0000000000001E25 = some (.rndFwd 30) ∧
    decode 0x0000000000001026 = some (.rndInv 16) := by decide

theorem test_decodes_table_word : decodeTableWord 64 0x1F13 = some (.krInject 31) := by decide

/-! ## Commands (spec/95_test_vectors.md) -/

/-- P3 steps 1 to 4. -/
theorem test_keyLoad_128 :
    nextIs (exec .keyLoad { State.reset with keylen := 16, keyHi := 0x0123456789ABCDEF, keyLo := 0x0123456789ABCDEF })
      (fun t => t.kr == .v128 k128 && readWord t 0x001 == 0x2E) := by
  decide +kernel

/-- P5 step 7. -/
theorem test_keyLoad_80 :
    nextIs (exec .keyLoad { State.reset with keylen := 10, keyHi := 0x0123456789ABCDEF, keyLo := 0x0123000000000000 })
      (fun t => t.kr == .v80 k80 && readWord t 0x001 == 0x26) := by
  decide +kernel

/-- V50: KEYLEN = 17. -/
theorem test_keyLoad_size :
    endsWith (exec .keyLoad { State.reset with keylen := 17 }) 0x122 0x11 = true := by
  decide +kernel

/-- P5 steps 14, 15. -/
theorem test_krClone :
    nextIs (exec .krClone (keyed (.v80 k80)))
      (fun t => readWord t 0x00C == 0x0123456789ABCDEF && readWord t 0x00D == 0x0123000000000000) := by
  decide +kernel

/-- V50. -/
theorem test_krClone_no_key :
    endsWith (exec .krClone State.reset) 0x622 0 = true := by
  decide +kernel

/-- V10. -/
theorem test_krRotate_80 :
    nextIs (exec .krRotate (walking (.v80 k80))) (·.wk == .v80 0xE024602468ACF13579BD) := by
  decide +kernel

/-- V10. -/
theorem test_krRotate_128 :
    nextIs (exec .krRotate (walking (.v128 k128))) (·.wk == .v128 0xE02468ACF13579BDE02468ACF13579BD) := by
  decide +kernel

/-- V10. -/
theorem test_krSubst_80 :
    nextIs (exec .krSubst (walking (.v80 k80))) (·.wk == .v80 0xC123456789ABCDEF0123) := by
  decide +kernel

/-- V10. -/
theorem test_krSubst_128 :
    nextIs (exec .krSubst (walking (.v128 k128))) (·.wk == .v128 0xC523456789ABCDEF0123456789ABCDEF) := by
  decide +kernel

/-- V10. -/
theorem test_krInject_80 :
    nextIs (exec (.krInject 31) (walking (.v80 k80))) (·.wk == .v80 0x0123456789ABCDE08123) := by
  decide +kernel

/-- V10. -/
theorem test_krInject_128 :
    nextIs (exec (.krInject 31) (walking (.v128 k128))) (·.wk == .v128 0x0123456789ABCDE8C123456789ABCDEF) := by
  decide +kernel

/-- V10. -/
theorem test_krUpdate_80 :
    nextIs (exec (.krUpdate 1) (walking (.v80 k80))) (·.wk == .v80 0x1024602468ACF135F9BD) := by
  decide +kernel

/-- V10. -/
theorem test_krUpdate_128 :
    nextIs (exec (.krUpdate 2) (walking (.v128 0x1C2468ACF13579BDA02468ACF13579BD))
     ) (·.wk == .v128 0x89048D159E26AF3723848D159E26AF37) := by
  decide +kernel

/-- V10. -/
theorem test_krExtract_80 :
    nextIs (exec .krExtract (walking (.v80 k80))) (·.dout == 0x0123456789ABCDEF) := by
  decide +kernel

/-- V10. -/
theorem test_krExtract_128 :
    nextIs (exec .krExtract (walking (.v128 0x89048D159E26AF3723848D159E26AF37))) (·.dout == 0x89048D159E26AF37) := by
  decide +kernel

/-- V30, key 0. -/
theorem test_ksRun_80 :
    nextIs (exec .ksRun (keyed (.v80 0))) (fun t => t.rk[3] == 0x60000A0003000001 &&
      t.rk[31] == 0x6DAB31744F41D700 && t.wk == .v80 0x6DAB31744F41D7008759) := by
  decide +kernel

/-- V30, last row. -/
theorem test_ksRun_128 :
    nextIs (exec .ksRun (keyed (.v128 k128))) (fun t => t.rk[2] == 0x89048D159E26AF37 &&
      t.wk == .v128 0x8DFA7F75ACC4C8CD0057A4739C158EB3) := by
  decide +kernel

/-- V35: ADDKEY 2. -/
theorem test_addkey :
    nextIs (exec (.addkey 2) (scheduled 0x0123456789ABCDEF)) (·.dout == 0x51235D6789ABCDEE) := by
  decide +kernel

/-- V35. -/
theorem test_addkey_31 :
    nextIs (exec (.addkey 31) (scheduled 0x38D2F04C34635345)) (·.dout == 0x5579C1387B228445) := by
  decide +kernel

/-- V2. -/
theorem test_slayer :
    nextIs (exec .slayer (block 0x0123456789ABCDEF)) (·.dout == 0xC56B90AD3EF84712) := by
  decide +kernel

/-- V2. -/
theorem test_slayerInv :
    nextIs (exec .slayerInv (block 0x0123456789ABCDEF)) (·.dout == 0x5EF8C12DB463079A) := by
  decide +kernel

/-- V2. -/
theorem test_player :
    nextIs (exec .player (block 0x0123456789ABCDEF)) (·.dout == 0x00FF0F0F33335555) := by
  decide +kernel

/-- V2. -/
theorem test_playerInv :
    nextIs (exec .playerInv (block 0x0123456789ABCDEF)) (·.dout == 0x3500350F35F035FF) := by
  decide +kernel

/-- V35. -/
theorem test_rndFwd :
    nextIs (exec (.rndFwd 1) (scheduled 0x0123456789ABCDEF)) (·.dout == 0x1B70E16C32E559A6) := by
  decide +kernel

/-- V35. -/
theorem test_rndInv :
    nextIs (exec (.rndInv 1) (scheduled 0x0123456789ABCDEF)) (·.dout == 0x4155815A81A581AA) := by
  decide +kernel

/-- V20. -/
theorem test_encrypt_80 :
    nextIs (exec .encrypt (keyed (.v80 0))) (·.dout == 0x5579C1387B228445) := by
  decide +kernel

/-- V21. -/
theorem test_encrypt_128 :
    nextIs (exec .encrypt (withDin (keyed (.v128 k128)) 0x0123456789ABCDEF)) (·.dout == 0x0E9D28685E671DD6) := by
  decide +kernel

/-- V21. -/
theorem test_decrypt_80 :
    nextIs (exec .decrypt (withDin (keyed (.v80 0)) 0x0000000048545450)) (·.dout == 0x9B3ACF3C18B3397C) := by
  decide +kernel

/-- V50. -/
theorem test_decrypt_no_key :
    endsWith (exec .decrypt State.reset) 0x622 0 = true := by
  decide +kernel

/-- V50: "a", "b", "a". -/
theorem test_alphaCommit_duplicate :
    endsWith (exec .alphaCommit (withTable [0x61, 0x62, 0x61] false State.reset)) 0x302 0x0000006100000002 = true := by
  decide +kernel

/-- V50: ALPHA_LEN = 257. -/
theorem test_alphaCommit_length :
    endsWith (exec .alphaCommit { State.reset with alphaLen := 257, alphaValid := false }) 0x802 0x101 = true := by
  decide +kernel

/-- V41: 1213486160 is "QBf7K1". -/
theorem test_encode :
    nextIs (exec .encode (block 1213486160)) (holdsString [0x51, 0x42, 0x66, 0x37, 0x4b, 0x31]) := by
  decide +kernel

/-- V41: 13 in base 2 is "1011". -/
theorem test_encode_base_2 :
    nextIs (exec .encode (withTable [0x30, 0x31] true (block 13))) (holdsString [0x31, 0x30, 0x31, 0x31]) := by
  decide +kernel

/-- V41: "bab" in "abc" is 10. -/
theorem test_decode_base_3 :
    nextIs (exec .decode (withTable [0x61, 0x62, 0x63] true (withString [0x62, 0x61, 0x62] State.reset))) 
      (·.dout == 10) := by
  decide +kernel

/-- V50: "0-0-". -/
theorem test_decode_invalid :
    endsWith (exec .decode (withString [0x30, 0x2d, 0x30, 0x2d] State.reset)) 0x422 0x0000002D00000001 = true := by
  decide +kernel

/-- V40: 1213486160 is "90NyXHLckhA". -/
theorem test_wrap :
    nextIs (exec .wrap (withDin (keyed (.v80 0)) 1213486160))
      (fun t => holdsString [0x39, 0x30, 0x4e, 0x79, 0x58, 0x48, 0x4c, 0x63, 0x6b, 0x68, 0x41] t &&
        t.dout == 0x7CB214C7E124B9B5) := by
  decide +kernel

/-- V50: no key wins. -/
theorem test_wrap_uncommitted :
    endsWith (exec .wrap { State.reset with alphaValid := false }) 0x602 0 = true := by
  decide +kernel

/-- V40: "90NyXHLckhA" is 1213486160. -/
theorem test_unwrap :
    nextIs (exec .unwrap (withString [0x39, 0x30, 0x4e, 0x79, 0x58, 0x48, 0x4c, 0x63, 0x6b, 0x68, 0x41] (keyed (.v80 0)))) 
      (·.dout == 1213486160) := by
  decide +kernel

/-- P2 step 20. -/
theorem test_unwrap_invalid :
    endsWith (exec .unwrap (withString [0x39, 0x30, 0x4e, 0x2d, 0x58, 0x48, 0x4c, 0x63, 0x6b, 0x68, 0x41] (keyed (.v80 0))))
      0x426 0x0000002D00000003 = true := by
  decide +kernel

/-- V60. -/
theorem test_srst :
    nextIs (exec .srst (withTable [] false (keyed (.v128 k128))))
      (fun t => readWord t 0x001 == 0x22 && t.alphaLen == 62) := by
  decide +kernel

/-- V60: NOP clears the error and leaves OVR. -/
theorem test_nop :
    endsWith (exec .nop { State.reset with err := .noKey, errinfo := 7, ovr := true }) 0x62 0 = true := by
  decide +kernel

/-- V60. -/
theorem test_statusClr :
    endsWith (exec .statusClr { keyed (.v80 0) with ovr := true }) 0x26 0 = true := by
  decide +kernel

/-- V50. -/
theorem test_illegal_word :
    endsWith (step (due 0x0000000000002013 State.reset)) 0x522 0x0000000000002013 = true := by
  decide +kernel

/-! ## The bus -/

/-- R80, R83: a read of STATUS with NOP in flight over the reset state returns 0x21. -/
theorem test_accept_sets_busy :
    (busCycle (rdCycle 0x001) (busCycle (wrCycle 0x002 0) State.reset)).busRdata = some 0x21 := by decide +kernel

/-- R83, U1: KEY_VAR of STATUS is a draw under KEY_LOAD and WK_VAR under WRAP, neither under SRST. -/
theorem test_status_variant_bits_draw :
    unspecifiedBits (due 0x0000000000000001 State.reset) 0x001 = 0x8 ∧
    unspecifiedBits (due 0x0000000000000004 State.reset) 0x001 = 0x10 ∧
    unspecifiedBits (due 0x000000000000000F State.reset) 0x001 = 0 := by decide +kernel

/-- V60: a write to DIN while BUSY = 1 is dropped and sets OVR. -/
theorem test_dropped_write :
    let t := busCycle (wrCycle 0x007 0x1234) (due 0 State.reset)
    t.din = 0 ∧ t.ovr = true := by decide +kernel

/-- V60: a write to an RO register does not set OVR. -/
theorem test_read_only_write_sets_no_ovr :
    (busCycle (wrCycle 0x03F 0x1234) (due 0 State.reset)).ovr = false := by decide +kernel

/-- P4 step 1: a write to ALPHA_LEN keeps 9 bits and clears ALPHA_VALID. -/
theorem test_alpha_len_write :
    let t := busCycle (wrCycle 0x009 0x0000000000000202) State.reset
    t.alphaLen = 2 ∧ t.alphaValid = false := by decide +kernel

/-- `cmd KR_INJECT, 1` is one write of 0x113 to CMD (P3 step 10). -/
theorem test_cmd_is_one_write : hostCmd (.krInject 1) = [.cycle (wrCycle 0x002 0x0000000000000113)] := by decide

/-- `key80` (P5 step 7). -/
theorem test_key80_writes : hostKey80 k80 =
    [.cycle (wrCycle 0x004 0xA), .cycle (wrCycle 0x005 0x0123456789ABCDEF),
     .cycle (wrCycle 0x006 0x0123000000000000), .cycle (wrCycle 0x002 0x1), .wait] := by decide

/-- The word stored where a step finds its command runs at the very next step. -/
theorem test_withFetchWord_runs :
    nextIs (step (State.reset.withFetchWord 64 0x21)) (·.dout == 0xCCCCCCCCCCCCCCCC) := by
  decide +kernel

/-! ## Witnesses: states that meet the hypotheses of the obligations, one clause each -/

/-- The default alphabet is legal. -/
theorem legal_of_default {s : State} (h : s.alphaLen = State.reset.alphaLen ∧ s.alpha = State.reset.alpha) :
    LegalAlphabet s := by
  refine (alphaCheck_eq_ok_iff s).1 ?_
  rw [h.1, h.2]
  decide +kernel

theorem witness_DecodedWordIsTheCommandsWord : decode 0x0000000000001F13 = some (.krInject 31) := by decide

/-- (a), (b) at each end of the reserved ranges, (c) and (d); in flight and idle. -/
theorem witness_IllegalWordsRaiseIllegalCommand :
    (∀ v ∈ [0x0000000000010000#64, 0x0000000000000009#64, 0x000000000000000D#64, 0x0000000000000017#64,
       0x000000000000001F#64, 0x0000000000000027#64, 0x00000000000000FF#64, 0x0000000000000102#64,
       0x0000000000002013#64], illegal v) ∧
    (∀ v ∈ [0x0000000000001F13#64, 0x0000000000000008#64, 0x000000000000000E#64, 0x0000000000000016#64,
       0x0000000000000026#64], ¬ illegal v) ∧
    State.reset.phase = .idle ∧
    (due 0x0000000000000102 State.reset).phase = .busy ∧ (due 0x0000000000000102 State.reset).latLeft = 0 := by
  refine ⟨?_, ?_, rfl, rfl, rfl⟩ <;> simp [illegal, idx5Opc, reservedOpc]

theorem witness_StepRunsTheDecodedCommand :
    let s := due 0x0000000000001F20 State.reset
    s.phase = .busy ∧ s.latLeft = 0 ∧ decode s.curCmd = some (.addkey 31) := by decide +kernel

/-- An idle core and a command in flight that is not due, with a cycle, with nothing and with `wait` next. -/
theorem witness_OtherStepsAreHostSteps :
    (State.reset.phase = .idle ∧ State.reset.script = []) ∧
    (let s := { accept 0 { State.reset with lats := [3] } with script := [HostInstr.wait] }
     s.latLeft ≠ 0 ∧ s.script = HostInstr.wait :: []) ∧
    (let s := { State.reset with script := hostRd .dout }
     s.phase = .idle ∧ s.script = HostInstr.cycle (rdCycle 0x008) :: []) := by decide +kernel

theorem witness_CommandInFlightEndsWithinItsLatency :
    (accept 0x0000000000000002 { State.reset with lats := [3] }).phase = .busy := by decide

/-- A command in flight meets the invariant, and its step answers a next state. -/
theorem witness_StepKeepsTheInvariant :
    Inv (due 0x0000000000000002 (keyed (.v128 k128))) ∧
      ∃ t, step (due 0x0000000000000002 (keyed (.v128 k128))) = .next t := by
  refine ⟨⟨fun _ => legal_of_default ⟨rfl, rfl⟩, fun _ => ⟨rfl, rfl, rfl⟩, ⟨by decide, fun _ => rfl⟩, ?_, .inl rfl⟩,
    ⟨_, rfl⟩⟩
  intro h
  exact absurd h (by decide)

theorem witness_ResetInputAbandonsTheCommand :
    ({ idleCycle with rst := true } : BusCycle).rst = true ∧
    (wrCycle 0x002 1).rst = false ∧ (due 0x0000000000000002 State.reset).phase = .busy := by decide +kernel

theorem witness_CmdWriteWhileIdleIsAccepted : State.reset.phase = .idle := rfl

theorem witness_RwWriteWhileIdleStoresTheField :
    State.reset.phase = .idle ∧
    (∀ a ∈ [0x004#12, 0x005#12, 0x006#12, 0x007#12, 0x009#12, 0x00A#12, 0x100#12, 0x1FF#12, 0x200#12, 0x23F#12],
      writable a ∧ a.toNat ≠ 0x002) := by
  simp [writable, State.reset]

/-- A write while BUSY = 1, and the three events that end OVR. -/
theorem witness_WriteWhileBusyIsDropped :
    ((due 0 State.reset).phase = .busy ∧ writable 0x002 ∧ writable 0x23F) ∧
    ∃ t, step (due 0x000000000000000E { State.reset with ovr := true }) = .next t ∧ t.ovr = false ∧
      nextCompletes (due 0x000000000000000E { State.reset with ovr := true }) .statusClr := by
  refine ⟨⟨rfl, ?_, ?_⟩, _, rfl, rfl, by unfold nextCompletes; decide +kernel⟩ <;> simp [writable]

theorem witness_UnmappedAddressesReadZeroIgnoreWrites :
    (∀ a ∈ [0x00B#12, 0x00E#12, 0x01F#12, 0x040#12, 0x0FF#12, 0x240#12, 0xFFF#12], unmapped a) ∧
    (∀ a ∈ [0x00A#12, 0x00D#12, 0x020#12, 0x03F#12, 0x100#12, 0x23F#12], ¬ unmapped a) := by
  simp [unmapped]

theorem witness_AccessRightsAreKept :
    (∀ a ∈ [0x000#12, 0x001#12, 0x003#12, 0x008#12, 0x00C#12, 0x00D#12, 0x020#12, 0x03F#12], readOnly a) ∧
    (∀ a ∈ [0x002#12, 0x004#12, 0x01F#12, 0x040#12], ¬ readOnly a) := by
  simp [readOnly]

/-- KEY_LOAD writes KEY_VAR only, ENCRYPT WK_VAR only, NOP neither. -/
theorem witness_ReadsWhileBusy_status :
    (∀ v, (due v State.reset).phase = .busy) ∧
    (writesKeyVar (due 1#64 State.reset) ∧ ¬ writesWkVar (due 1#64 State.reset)) ∧
    (writesWkVar (due 2#64 State.reset) ∧ ¬ writesKeyVar (due 2#64 State.reset)) ∧
    (¬ writesKeyVar (due 0#64 State.reset) ∧ ¬ writesWkVar (due 0#64 State.reset)) := by
  have d0 : decode (due 0#64 State.reset).curCmd = some .nop := by decide +kernel
  have d1 : decode (due 1#64 State.reset).curCmd = some .keyLoad := by decide +kernel
  have d2 : decode (due 2#64 State.reset).curCmd = some .encrypt := by decide +kernel
  refine ⟨fun _ => rfl, ?_, ?_, ?_⟩ <;> simp [writesKeyVar, writesWkVar, d0, d1, d2]

/-- ENCRYPT in flight: DOUT is in its write-set, DIN and ERRINFO are not. -/
theorem witness_ReadsWhileBusy :
    let s := due 0x0000000000000002 (keyed (.v80 0))
    s.phase = .busy ∧ (∃ i, decode s.curCmd = some i ∧ writeSet i 0x008) ∧
    (0x007#12) ≠ 0x001 ∧ (0x003#12) ≠ 0x001 ∧
    (∀ i, decode s.curCmd = some i → ¬ writeSet i 0x007) ∧ (∀ i, decode s.curCmd = some i → ¬ writeSet i 0x003) := by
  have h : decode (due 0x0000000000000002 (keyed (.v80 0))).curCmd = some .encrypt := by decide +kernel
  refine ⟨rfl, ⟨_, h, .inl rfl⟩, by decide, by decide, ?_, ?_⟩ <;> intro i hi <;>
    obtain rfl : Instr.encrypt = i := Option.some.inj (h.symm.trans hi) <;> simp [writeSet, rkAddr, wkAddr]

theorem witness_ReadsWhileIdleAndEmptyCycles :
    ((rdCycle 0x008).rst = false ∧ State.reset.phase = .idle ∧ (rdCycle 0x008).we = false ∧
      (rdCycle 0x008).re = true) ∧
    (let c : BusCycle := { idleCycle with we := true, re := true }
     c.rst = false ∧ c.we = true ∧ c.re = true) ∧
    (idleCycle.rst = false ∧ idleCycle.we = false ∧ idleCycle.re = false) := by decide

theorem witness_RegisterMapReads :
    State.reset.phase = .idle ∧ (walking (.v80 k80)).wk = .v80 k80 ∧ (walking (.v128 k128)).wk = .v128 k128 :=
  ⟨rfl, rfl, rfl⟩

/-- Every KEYLEN at which the clauses meet. -/
theorem witness_KeyLoad :
    ({ State.reset with keylen := 10 } : State).keylen.toNat = 10 ∧
    ({ State.reset with keylen := 16 } : State).keylen.toNat = 16 ∧
    (∀ n ∈ [0, 9, 11, 15, 17, 255], ({ State.reset with keylen := BitVec.ofNat 8 n } : State).keylen.toNat ≠ 10 ∧
      ({ State.reset with keylen := BitVec.ofNat 8 n } : State).keylen.toNat ≠ 16) := by decide

theorem witness_KrClone : (keyed (.v80 k80)).keyValid = true ∧ State.reset.keyValid = false := ⟨rfl, rfl⟩

theorem witness_KrRotate : (walking (.v80 k80)).wk = .v80 k80 ∧ (walking (.v128 k128)).wk = .v128 k128 := ⟨rfl, rfl⟩

theorem witness_KrSubst : (walking (.v80 0)).wk = .v80 0 ∧ (walking (.v128 0)).wk = .v128 0 := ⟨rfl, rfl⟩

theorem witness_KrInject : (walking (.v80 1)).wk = .v80 1 ∧ (walking (.v128 1)).wk = .v128 1 := ⟨rfl, rfl⟩

theorem witness_KrExtract : (walking (.v80 2)).wk = .v80 2 ∧ (walking (.v128 2)).wk = .v128 2 := ⟨rfl, rfl⟩

theorem witness_KsRun : (keyed (.v128 k128)).keyValid = true ∧ State.reset.keyValid = false := ⟨rfl, rfl⟩

theorem witness_StepwiseWalkIsKsRun : (keyed (.v80 0)).keyValid = true := rfl

theorem witness_EncryptIsItsRounds : (keyed (.v80 1)).keyValid = true ∧ State.reset.keyValid = false := ⟨rfl, rfl⟩

theorem witness_DecryptIsItsRounds : (keyed (.v128 1)).keyValid = true ∧ State.reset.keyValid = false := ⟨rfl, rfl⟩

theorem witness_DecryptInvertsEncrypt : (keyed (.v80 k80)).keyValid = true := rfl

/-- Two states that differ in WK. -/
theorem witness_CipherDependsOnBlockAndKeyOnly :
    let s := keyed (.v80 k80)
    let t := { s with wk := .v128 k128 }
    s.keyValid = true ∧ t.keyValid = true ∧ s.kr = t.kr ∧ s.din = t.din := ⟨rfl, rfl, rfl, rfl⟩

/-- A legal table; both lengths next to the legal ones at each end; "a", "b", "a". -/
theorem witness_AlphaCommit :
    LegalAlphabet State.reset ∧ ¬ LegalAlphabet (withTable [0x61] false State.reset) ∧
    ((withTable [0x61] false State.reset).alphaLen.toNat < 2 ∧
      256 < ({ State.reset with alphaLen := 257 } : State).alphaLen.toNat) ∧
    (let s := withTable [0x61, 0x62, 0x61] false State.reset
     let i : Fin 256 := 0
     let j : Fin 256 := 2
     2 ≤ s.alphaLen.toNat ∧ s.alphaLen.toNat ≤ 256 ∧ i < j ∧ j.val < s.alphaLen.toNat ∧ s.alpha[i] = s.alpha[j] ∧
     (∀ j' i' : Fin 256, j' < j → i' < j' → s.alpha[i'] ≠ s.alpha[j']) ∧
     (∀ i' : Fin 256, i' < i → s.alpha[i'] ≠ s.alpha[j])) := by
  refine ⟨legal_of_default ⟨rfl, rfl⟩, fun h => absurd h.1 (by decide +kernel), by decide +kernel, by decide +kernel,
    by decide +kernel, by decide, by decide +kernel,
    by decide +kernel, fun j' i' h h' => ?_, fun i' h => absurd h (Nat.not_lt_zero _)⟩
  have hj : j'.val < 2 := h
  have hi : i'.val < j'.val := h'
  obtain rfl : j' = 1 := Fin.ext (by change j'.val = 1; omega)
  obtain rfl : i' = 0 := Fin.ext (by change i'.val = 0; omega)
  decide +kernel

theorem witness_EncodeWritesTheDigits :
    (State.reset.alphaValid = true ∧ LegalAlphabet State.reset) ∧
    (withTable [0x61] false State.reset).alphaValid = false := ⟨⟨rfl, legal_of_default ⟨rfl, rfl⟩⟩, rfl⟩

/-- Lengths 0 and 65; "10" with its digits; "0-0-" with its lowest bad position. -/
theorem witness_DecodeSumsTheDigits :
    (withTable [0x61] false State.reset).alphaValid = false ∧
    (State.reset.alphaValid = true ∧ LegalAlphabet State.reset ∧ State.reset.symLen.toNat < 1) ∧
    64 < ({ State.reset with symLen := 65 } : State).symLen.toNat ∧
    (let s := withString [0x31, 0x30] State.reset
     let d : Fin 64 → Fin 256 := fun p => if p.val = 0 then 1 else 0
     LegalAlphabet s ∧ 1 ≤ s.symLen.toNat ∧ s.symLen.toNat ≤ 64 ∧
     ∀ p : Fin 64, p.val < s.symLen.toNat → (d p).val < s.alphaLen.toNat ∧ s.alpha[d p] = s.sym[p]) ∧
    (let s := withString [0x30, 0x2D, 0x30, 0x2D] State.reset
     let p : Fin 64 := 1
     LegalAlphabet s ∧ s.symLen.toNat ≤ 64 ∧ p.val < s.symLen.toNat ∧
     (∀ i : Fin 256, i.val < s.alphaLen.toNat → s.alpha[i] ≠ s.sym[p]) ∧
     (∀ q : Fin 64, q < p → ∃ i : Fin 256, i.val < s.alphaLen.toNat ∧ s.alpha[i] = s.sym[q])) := by
  refine ⟨rfl, ⟨rfl, legal_of_default ⟨rfl, rfl⟩, by decide⟩, by decide, ⟨legal_of_default ⟨rfl, rfl⟩, ?_⟩,
    ⟨legal_of_default ⟨rfl, rfl⟩, ?_⟩⟩ <;> decide +kernel

theorem witness_DecodeInvertsEncode : State.reset.alphaValid = true ∧ LegalAlphabet State.reset :=
  ⟨rfl, legal_of_default ⟨rfl, rfl⟩⟩

/-- The two symbols of "01" swapped. -/
theorem witness_ShuffledAlphabetCommits :
    let s := withTable [0x30, 0x31] true State.reset
    let t := withTable [0x31, 0x30] false State.reset
    let perm : Nat → Nat := fun i => 1 - i
    LegalAlphabet s ∧ t.alphaLen = s.alphaLen ∧ (∀ i < s.alphaLen.toNat, perm i < s.alphaLen.toNat) ∧
    (∀ i < s.alphaLen.toNat, ∀ j < s.alphaLen.toNat, perm i = perm j → i = j) ∧
    t.alphabet = shuffled perm s.alphabet := by
  refine ⟨(alphaCheck_eq_ok_iff _).1 (by decide +kernel), rfl, ?_, ?_, ?_⟩ <;> decide +kernel

theorem witness_WrapIsEncryptThenEncode :
    ((keyed (.v80 0)).keyValid = true ∧ (keyed (.v80 0)).alphaValid = true) ∧ State.reset.keyValid = false ∧
    ((withTable [] false (keyed (.v80 0))).keyValid = true ∧
      (withTable [] false (keyed (.v80 0))).alphaValid = false) := ⟨⟨rfl, rfl⟩, rfl, rfl, rfl⟩

/-- A failed and a successful DECODE under the clauses of UNWRAP. -/
theorem witness_UnwrapIsDecodeThenDecrypt :
    State.reset.keyValid = false ∧
    ((withTable [] false (keyed (.v80 0))).keyValid = true ∧
      (withTable [] false (keyed (.v80 0))).alphaValid = false) ∧
    ((keyed (.v80 0)).keyValid = true ∧ (keyed (.v80 0)).alphaValid = true) ∧
    nextIs (exec .decode (keyed (.v80 0))) (·.err != .success) = true ∧
    nextIs (exec .decode (withString [0x30] (keyed (.v80 0)))) (·.err == .success) = true ∧
    (let s := withString [0x30] (keyed (.v80 0))
     s.keyValid = true ∧ s.alphaValid = true ∧ LegalAlphabet s ∧ 1 ≤ s.symLen.toNat ∧ s.symLen.toNat ≤ 64 ∧
     ∀ p : Fin 64, p.val < s.symLen.toNat → ∃ i : Fin 256, i.val < s.alphaLen.toNat ∧ s.alpha[i] = s.sym[p]) := by
  refine ⟨rfl, ⟨rfl, rfl⟩, ⟨rfl, rfl⟩, by decide +kernel, by decide +kernel, rfl, rfl, legal_of_default ⟨rfl, rfl⟩, ?_, ?_, ?_⟩ <;>
    decide +kernel

theorem witness_UnwrapInvertsWrap :
    (keyed (.v128 k128)).keyValid = true ∧ (keyed (.v128 k128)).alphaValid = true ∧
    LegalAlphabet (keyed (.v128 k128)) := ⟨rfl, rfl, legal_of_default ⟨rfl, rfl⟩⟩

theorem witness_WrapIsInjective :
    (keyed (.v80 0)).keyValid = true ∧ (keyed (.v80 0)).alphaValid = true ∧ LegalAlphabet (keyed (.v80 0)) ∧
    (1 : Word) ≠ (keyed (.v80 0)).din := ⟨rfl, rfl, legal_of_default ⟨rfl, rfl⟩, by decide⟩

theorem witness_OnlyKeyLoadAndResetWriteKr :
    let s := due 0x0000000000000001 { State.reset with keylen := 10, keyHi := 1 }
    nextIs (step s) (fun t => t.kr != s.kr) = true ∧ nextIs (step s) (fun t => t.keyValid != s.keyValid) = true ∧
    (KeyReg.v80 k80).variant = s.kr.variant := by
  decide +kernel

theorem witness_OnlySchedulesWriteRk :
    let s := due 0x0000000000000016 (keyed (.v80 k80))
    nextIs (step s) (fun t => t.rk != s.rk) = true := by decide +kernel

/-- ALPHA_COMMIT of a legal table sets it; a write to ALPHA_LEN or to either end of ALPHA clears it. -/
theorem witness_AlphaValidFollowsTheTable :
    ((withTable [] false (keyed (.v80 0))).alphaValid = false ∧ (withTable [] false (keyed (.v80 0))).keyValid = true) ∧
    (let s := due 0x0000000000000008 { State.reset with alphaValid := false }
     s.alphaValid = false ∧ nextIs (step s) (·.alphaValid) = true) ∧
    (∀ a ∈ [0x009#12, 0x100#12, 0x1FF#12],
      let c := wrCycle a 2
      c.rst = false ∧ c.we = true ∧ c.re = false ∧
      (c.addr = 0x009 ∨ (0x100 ≤ c.addr.toNat ∧ c.addr.toNat ≤ 0x1FF)) ∧
      nextIs (step { State.reset with script := [HostInstr.cycle c] }) (fun t => t.alphaValid == false) = true) := by
  decide +kernel

/-- A command that fails, and one that does not. -/
theorem witness_FailedCommandChangesOnlyTheError :
    nextIs (exec .encrypt State.reset) (·.err != .success) = true ∧
    nextIs (exec .encrypt (keyed (.v80 0))) (·.err == .success) = true := by decide +kernel

theorem witness_CommandsRaiseOnlyTheirCodes :
    nextIs (exec .keyLoad State.reset) (·.err == .invalidKeySize) = true ∧
    nextIs (exec .unwrap (keyed (.v80 0))) (·.err == .badSymLen) = true := by decide +kernel

/-- DIN is outside the write-set of ENCRYPT, which completes. -/
theorem witness_AddressesOutsideTheWriteSetKeep :
    nextIs (exec .encrypt (keyed (.v80 0))) (fun _ => true) = true ∧ ¬ writeSet .encrypt 0x007 ∧
    (0x007#12) ≠ 0x001 ∧ (0x007#12) ≠ 0x003 := by
  refine ⟨by decide +kernel, ?_, by decide, by decide⟩
  simp [writeSet, rkAddr, wkAddr]

end Sys2Proof.Tests
end

/-! PROOF. What each event of the machine does to STATUS.ALPHA_VALID (10_state.md R47). -/

namespace Sys2Proof.Machine

open Sys2Proof.Claims

/-! ## Writes to the table -/

/-- The registers of the symbol table: ALPHA_LEN and ALPHA[i]. -/
def Reg.isTable : Reg → Bool
  | .alphaLen | .alpha _ => true
  | .id | .status | .cmd | .errinfo | .keylen | .keyHi | .keyLo | .din | .dout | .symLen | .wkHi | .wkLo | .rk _
  | .sym _ => false

/-- The addresses of the symbol table. -/
def tableAddr (a : Addr) : Prop := a = 0x009 ∨ (0x100 ≤ a.toNat ∧ a.toNat ≤ 0x1FF)

/-- The cycle is a write to the symbol table (R72). -/
def BusCycle.writesTable (c : BusCycle) : Prop :=
  c.rst = false ∧ c.we = true ∧ c.re = false ∧ tableAddr c.addr

/-- The event of the next step is a write to the symbol table that is not dropped. -/
def nextWritesTable (s : State) : Prop :=
  s.phase = .idle ∧ ∃ c rest, s.script = HostInstr.cycle c :: rest ∧ c.writesTable

theorem storeReg_alphaValid (s : State) (v : Word) (r : Reg) :
    (storeReg s v r).alphaValid = (s.alphaValid && !r.isTable) := by
  cases r <;> simp [storeReg, Reg.isTable]

theorem Reg.isTable_iff_tableAddr (r : Reg) : r.isTable = true ↔ tableAddr r.addr := by
  cases r with
  | alpha i => simp only [isTable, tableAddr, addr, true_iff]; right; bv_omega
  | rk i => simp only [isTable, tableAddr, addr, Bool.false_eq_true, false_iff]; bv_omega
  | sym p => simp only [isTable, tableAddr, addr, Bool.false_eq_true, false_iff]; bv_omega
  | _ => simp [isTable, tableAddr, addr]

/-- Every address of the table is mapped, to a RW register of the table (R32). -/
theorem regAt_of_tableAddr {a : Addr} (h : tableAddr a) : ∃ r, regAt a = some r ∧ r.access = .rw := by
  obtain rfl | ⟨hlo, hhi⟩ := h
  · exact ⟨.alphaLen, regAt_addr .alphaLen, rfl⟩
  · refine ⟨.alpha ⟨a.toNat - 0x100, by omega⟩, ?_, rfl⟩
    rw [regAt, dif_neg (by omega), dif_pos ⟨hlo, by omega⟩]

/-- A write to the bus clears ALPHA_VALID exactly when it reaches the table while idle, whatever its value is. -/
theorem writeReg_alphaValid_iff (s : State) (a : Addr) (v : Word) :
    (writeReg s a v).alphaValid = true ↔ s.alphaValid = true ∧ ¬ (s.phase = .idle ∧ tableAddr a) := by
  obtain ⟨h, hro⟩ | ⟨r, -, -, hbusy, h⟩ | ⟨hcmd, -, h⟩ | ⟨r, hr, -, hidle, h⟩ := writeReg_cases s a v
  · have hna : ¬ tableAddr a := fun ht => by
      obtain ⟨r, hr, hrw⟩ := regAt_of_tableAddr ht
      simp [hro r hr] at hrw
    simp [h, hna]
  · simp [h, hbusy]
  · have hna : ¬ tableAddr a := by
      rw [← addr_of_regAt hcmd, ← Reg.isTable_iff_tableAddr]
      simp [Reg.isTable]
    simp [h, hna]
  · rw [h, storeReg_alphaValid, ← addr_of_regAt hr, ← Reg.isTable_iff_tableAddr]
    simp [hidle]

/-! ## Host steps -/

theorem resetCycle_alphaValid (s : State) (re : Bool) : (resetCycle s re).alphaValid = true := by
  cases re <;> rfl

theorem busCycle_alphaValid_of_rst {c : BusCycle} (h : c.rst = true) (s : State) :
    (busCycle c s).alphaValid = true := by
  simp [busCycle, h, resetCycle_alphaValid]

/-- Of the cycles without rst only a write to the table while idle changes ALPHA_VALID. -/
theorem busCycle_alphaValid_iff {c : BusCycle} (hrst : c.rst = false) (s : State) :
    (busCycle c s).alphaValid = true ↔ s.alphaValid = true ∧ ¬ (s.phase = .idle ∧ c.writesTable) := by
  obtain ⟨hrst', -⟩ | ⟨-, -, hre, h⟩ | ⟨-, hwe, -, h⟩ | ⟨-, hwe, hre, h⟩ | ⟨-, hwe, -, h⟩ := busCycle_cases c s
  · simp [hrst] at hrst'
  · simp [h, BusCycle.writesTable, hre]
  · obtain ⟨v, n, hread⟩ := readCycle_eq (tick s) c.addr
    simp [h, hread, BusCycle.writesTable, hwe]
  · simp [h, writeCycle, writeReg_alphaValid_iff, BusCycle.writesTable, hrst, hwe, hre]
  · simp [h, BusCycle.writesTable, hwe]

/-- A host step other than a reset cycle changes ALPHA_VALID only by a write to the table while idle. -/
theorem hostStep_alphaValid_iff {s : State} (hcore : coreReady s = false) (hreset : ¬ nextIsReset s) :
    (hostStep s).alphaValid = true ↔ s.alphaValid = true ∧ ¬ nextWritesTable s := by
  obtain ⟨hs, h⟩ | ⟨c, rest, hs, h⟩ | ⟨rest, p, hs, h⟩ := hostStep_cases s
  · rw [h, busCycle_alphaValid_iff rfl]
    simp [nextWritesTable, hs, BusCycle.writesTable, idleCycle]
  · have hrst : c.rst = false := by simpa [nextIsReset, hcore, hs] using hreset
    rw [h, busCycle_alphaValid_iff hrst]
    simp [nextWritesTable, hs]
  · simp [h, busCycle_alphaValid_iff, nextWritesTable, hs, BusCycle.writesTable, rdCycle, idleCycle]

theorem hostStep_alphaValid_of_reset {s : State} (h : nextIsReset s) : (hostStep s).alphaValid = true := by
  obtain ⟨-, c, rest, hs, hrst⟩ := h
  simp [hostStep, hs, busCycle_alphaValid_of_rst hrst]

/-! ## Completions and steps -/

/-- Only an ALPHA_COMMIT that succeeds and SRST touch ALPHA_VALID, and both set it. -/
theorem complete_alphaValid_cases (i : Instr) (s : State) :
    (complete s (resultOf i s)).alphaValid = s.alphaValid ∨
      (complete s (resultOf i s)).alphaValid = true ∧
        (i = .alphaCommit ∧ (complete s (resultOf i s)).err = .success ∨ i = .srst) := by
  obtain ⟨t, hr, h⟩ | ⟨e, info, -, h⟩ := complete_cases s (resultOf i s)
  · rw [h]
    by_cases hi : i = .srst
    · subst hi
      cases hr
      exact .inr ⟨rfl, .inr rfl⟩
    · obtain ⟨-, -, hkeep | ⟨hcommit, hset, -⟩, -, -⟩ := resultOf_ok_frame hr hi
      · exact .inl hkeep
      · exact .inr ⟨hset, .inl ⟨hcommit, rfl⟩⟩
  · exact .inl (by simp [h])

/-- The event of the step from s to t is one of the three that set ALPHA_VALID (R47). -/
def setsAlphaValid (s t : State) : Prop :=
  (nextCompletes s .alphaCommit ∧ t.err = .success) ∨ nextCompletes s .srst ∨ nextIsReset s

theorem not_nextWritesTable_of_coreReady {s : State} (h : coreReady s = true) : ¬ nextWritesTable s := by
  rintro ⟨hidle, -⟩
  simp [coreReady, State.isBusy, hidle] at h

theorem not_nextWritesTable_of_reset {s : State} (h : nextIsReset s) : ¬ nextWritesTable s := by
  rintro ⟨-, c, rest, hs, hrst, -⟩
  obtain ⟨-, c', rest', hs', hrst'⟩ := h
  rw [hs] at hs'
  cases hs'
  simp [hrst] at hrst'

/-- What a step does to ALPHA_VALID: a write to the table clears it; any other event keeps it, or is one that sets it. -/
theorem step_alphaValid_cases {s t : State} (h : step s = .next t) :
    (nextWritesTable s ∧ t.alphaValid = false) ∨
    (¬ nextWritesTable s ∧ (t.alphaValid = s.alphaValid ∨ (t.alphaValid = true ∧ setsAlphaValid s t))) := by
  obtain ⟨i, hcore, hdec, hstep⟩ | ⟨hcore, -, hstep⟩ | ⟨hcore, hstep⟩ := step_cases s <;>
    (rw [hstep] at h; cases h)
  case inl =>
    refine .inr ⟨not_nextWritesTable_of_coreReady hcore, (complete_alphaValid_cases i s).imp_right ?_⟩
    rintro ⟨hset, ⟨rfl, herr⟩ | rfl⟩
    · exact ⟨hset, .inl ⟨⟨hcore, hdec⟩, herr⟩⟩
    · exact ⟨hset, .inr (.inl ⟨hcore, hdec⟩)⟩
  case inr.inl => exact .inr ⟨not_nextWritesTable_of_coreReady hcore, .inl rfl⟩
  case inr.inr =>
    by_cases hreset : nextIsReset s
    · exact .inr ⟨not_nextWritesTable_of_reset hreset, .inr ⟨hostStep_alphaValid_of_reset hreset, .inr (.inr hreset)⟩⟩
    · have hiff := hostStep_alphaValid_iff hcore hreset
      by_cases hw : nextWritesTable s
      · exact .inl ⟨hw, by simpa [hw] using hiff⟩
      · exact .inr ⟨hw, .inl (by simpa [hw, ← Bool.eq_iff_iff] using hiff)⟩

/-- While ALPHA_VALID is 0 the codec's commands raise NO_ALPHABET (R267, R272), and so do the facade's with a key. -/
theorem exec_of_alphaValid_false {s : State} (h : s.alphaValid = false) :
    exec .encode s = .next (failed s .noAlphabet 0) ∧ exec .decode s = .next (failed s .noAlphabet 0) ∧
    (s.keyValid = true →
      exec .wrap s = .next (failed s .noAlphabet 0) ∧ exec .unwrap s = .next (failed s .noAlphabet 0)) := by
  simp +contextual [exec_eq_complete, resultOf, requireAlphabet_of_invalid h, requireKey_of_valid]

/-- Settles O56: the first part is the check the four commands share; the second reads off what the one event of a
step does to ALPHA_VALID. -/
theorem alphaValidFollowsTheTable : Obligations.AlphaValidFollowsTheTable := by
  unfold Obligations.AlphaValidFollowsTheTable
  refine ⟨fun s => exec_of_alphaValid_false, fun s t h => ?_⟩
  obtain ⟨hw, hclear⟩ | ⟨hnw, hkeep⟩ := step_alphaValid_cases h
  · exact ⟨by simp [hclear], fun _ _ => hw, fun _ _ _ _ _ _ _ _ => hclear⟩
  · refine ⟨fun h0 h1 => ?_, fun h1 h0 => ?_, fun c rest hidle hs hrst hwe hre ha => ?_⟩
    · obtain hsame | ⟨-, hset⟩ := hkeep
      · simp [h0, h1] at hsame
      · exact hset
    · simp [h0, h1] at hkeep
    · exact absurd ⟨hidle, c, rest, hs, hrst, hwe, hre, ha⟩ hnw

end Sys2Proof.Machine

/-! PROOF. The bus: what a write reaches, what a read returns of it, and the fields of the registers
(20_memory.md R76 to R82). -/

namespace Sys2Proof.Machine

open Sys2Proof.Claims

/-! ## The fields of the registers (R77) -/

/-- How many low bits of a word a register keeps (R36, R45, R46, R48, R49). -/
def Reg.fieldWidth : Reg → Nat
  | .keylen => 8
  | .alphaLen => 9
  | .symLen => 7
  | .alpha _ | .sym _ => 32
  | .id | .status | .cmd | .errinfo | .keyHi | .keyLo | .din | .dout | .wkHi | .wkLo | .rk _ => 64

/-- The field bits of a register as a mask on a bus word. -/
def Reg.fieldMask (r : Reg) : Word := (BitVec.allOnes r.fieldWidth).setWidth 64

theorem setWidth_setWidth_eq_and (n : Nat) (v : Word) :
    (v.setWidth n).setWidth 64 = v &&& (BitVec.allOnes n).setWidth 64 := by
  ext i hi
  simp [hi, Bool.and_comm]

theorem setWidth_and_mask {n : Nat} (hn : n ≤ 64) (v : Word) :
    (v &&& (BitVec.allOnes n).setWidth 64).setWidth n = v.setWidth n := by
  ext i hi
  simp [hi, show i < 64 by omega]

theorem setWidth_and_not_mask {n : Nat} (x : BitVec n) :
    x.setWidth 64 &&& ~~~(BitVec.allOnes n).setWidth 64 = 0 := by
  ext i hi
  simpa [hi] using BitVec.lt_of_getLsbD

theorem Reg.fieldWidth_le (r : Reg) : r.fieldWidth ≤ 64 := by
  cases r <;> simp [fieldWidth]

theorem Reg.fieldMask_of_full {r : Reg} (h : r.fieldWidth = 64) : r.fieldMask = BitVec.allOnes 64 := by
  rw [fieldMask, h, BitVec.setWidth_eq]

/-- A register narrower than the bus is an RW register. -/
theorem Reg.access_of_fieldWidth_ne {r : Reg} (h : r.fieldWidth ≠ 64) : r.access = .rw := by
  cases r <;> simp [fieldWidth, access] at h ⊢

/-- What an RW register reads as after a store is the field bits of the value. -/
theorem readReg_storeReg {r : Reg} (hr : r.access = .rw) (s : State) (v : Word) :
    readReg (storeReg s v r) r = v &&& r.fieldMask := by
  have hfield : (v.setWidth r.fieldWidth).setWidth 64 = v &&& r.fieldMask := setWidth_setWidth_eq_and _ v
  cases r <;> cases hr <;> simpa [storeReg, readReg, Reg.fieldWidth] using hfield

/-- The bits of a value outside the field make no difference to a store. -/
theorem storeReg_and_fieldMask (s : State) (v : Word) (r : Reg) :
    storeReg s (v &&& r.fieldMask) r = storeReg s v r := by
  have hfield : (v &&& r.fieldMask).setWidth r.fieldWidth = v.setWidth r.fieldWidth :=
    setWidth_and_mask r.fieldWidth_le v
  cases r <;> simp only [Reg.fieldWidth, BitVec.setWidth_eq] at hfield <;> simp only [storeReg, hfield]

/-- A register reads 0 outside its field. -/
theorem readReg_and_not_fieldMask (s : State) (r : Reg) : readReg s r &&& ~~~r.fieldMask = 0 := by
  cases r
  case keylen | alphaLen | symLen | alpha | sym => exact setWidth_and_not_mask _
  all_goals rw [Reg.fieldMask_of_full rfl, BitVec.not_allOnes]; exact BitVec.and_zero

/-! ## The addresses (R32, R76, R77) -/

theorem Reg.addr_alpha (i : Fin 256) : (Reg.alpha i).addr = BitVec.ofNat 12 (0x100 + i.val) :=
  (BitVec.ofNat_add ..).symm

theorem Reg.addr_sym (p : Fin 64) : (Reg.sym p).addr = BitVec.ofNat 12 (0x200 + p.val) :=
  (BitVec.ofNat_add ..).symm

theorem Reg.not_unmapped_addr (r : Reg) : ¬ unmapped r.addr := by
  cases r with
  | rk i => simp only [unmapped, addr]; bv_omega
  | alpha i => simp only [unmapped, addr]; bv_omega
  | sym p => simp only [unmapped, addr]; bv_omega
  | _ => simp [unmapped, addr]

theorem regAt_of_unmapped {a : Addr} (h : unmapped a) : regAt a = none := by
  cases hr : regAt a with
  | none => rfl
  | some r => exact absurd (addr_of_regAt hr ▸ h) r.not_unmapped_addr

theorem Reg.access_of_readOnly_addr {r : Reg} (h : readOnly r.addr) : r.access = .ro := by
  cases r with
  | alpha i => simp only [readOnly, addr] at h; bv_omega
  | sym p => simp only [readOnly, addr] at h; bv_omega
  | _ => simp [readOnly, addr, access] at h ⊢

/-- Every address of R81 and CMD's is the address of a register that takes writes. -/
theorem exists_reg_of_writable {a : Addr} (h : writable a) : ∃ r : Reg, r.addr = a ∧ r.access ≠ .ro := by
  obtain h | h | h | h | h | h | h | ⟨hlo, hhi⟩ | ⟨hlo, hhi⟩ := h
  · exact ⟨.cmd, BitVec.eq_of_toNat_eq h.symm, by decide⟩
  · exact ⟨.keylen, BitVec.eq_of_toNat_eq h.symm, by decide⟩
  · exact ⟨.keyHi, BitVec.eq_of_toNat_eq h.symm, by decide⟩
  · exact ⟨.keyLo, BitVec.eq_of_toNat_eq h.symm, by decide⟩
  · exact ⟨.din, BitVec.eq_of_toNat_eq h.symm, by decide⟩
  · exact ⟨.alphaLen, BitVec.eq_of_toNat_eq h.symm, by decide⟩
  · exact ⟨.symLen, BitVec.eq_of_toNat_eq h.symm, by decide⟩
  · exact ⟨.alpha ⟨a.toNat - 0x100, by omega⟩, by simp only [Reg.addr]; bv_omega, by simp [Reg.access]⟩
  · exact ⟨.sym ⟨a.toNat - 0x200, by omega⟩, by simp only [Reg.addr]; bv_omega, by simp [Reg.access]⟩

theorem Reg.eq_cmd_or_access_rw {r : Reg} (h : r.access ≠ .ro) : r = .cmd ∨ r.access = .rw := by
  cases r <;> simp [access] at h ⊢

/-- The field bits of the RW register at an address, as R81's claim lists them by address. -/
theorem Reg.and_fieldMask_eq_ite {r : Reg} (hr : r.access = .rw) (v : Word) :
    v &&& r.fieldMask =
      if r.addr.toNat = 0x004 then v &&& 0xFF
      else if r.addr.toNat = 0x009 then v &&& 0x1FF
      else if r.addr.toNat = 0x00A then v &&& 0x7F
      else if 0x100 ≤ r.addr.toNat then v &&& 0xFFFFFFFF
      else v := by
  cases r with
  | alpha i =>
    have ha : (Reg.alpha i).addr.toNat = 0x100 + i.val := by simp only [addr]; bv_omega
    rw [if_neg (by omega), if_neg (by omega), if_neg (by omega), if_pos (by omega)]
    rfl
  | sym p =>
    have ha : (Reg.sym p).addr.toNat = 0x200 + p.val := by simp only [addr]; bv_omega
    rw [if_neg (by omega), if_neg (by omega), if_neg (by omega), if_pos (by omega)]
    rfl
  | keyHi | keyLo | din => rw [fieldMask_of_full rfl, BitVec.and_allOnes]; rfl
  | _ => cases hr <;> rfl

theorem readWord_addr (s : State) (r : Reg) : readWord s r.addr = readReg s r := by
  rw [readWord, regAt_addr]

/-! ## One write cycle -/

theorem busCycle_wrCycle (a : Addr) (v : Word) (s : State) :
    busCycle (wrCycle a v) s = { writeReg (tick s) a v with busRdata := none } := rfl

/-- A write to an unmapped address or to an RO register changes no register, in any phase (R76, R77). -/
theorem busCycle_wrCycle_ignored {a : Addr} (h : ∀ r, regAt a = some r → r.access = .ro) (v : Word) (s : State) :
    busCycle (wrCycle a v) s = afterCycle s none := by
  obtain ⟨hw, -⟩ | ⟨r, hr, hro, -⟩ | ⟨hr, -⟩ | ⟨r, hr, hrw, -⟩ := writeReg_cases (tick s) a v
  · rw [busCycle_wrCycle, hw]; rfl
  · exact absurd (h r hr) hro
  · cases h _ hr
  · rw [h r hr] at hrw; cases hrw

/-- A write that would take effect is dropped while BUSY = 1 (R82). -/
theorem busCycle_wrCycle_busy {s : State} (hs : s.phase = .busy) {r : Reg} (hr : r.access ≠ .ro) (v : Word) :
    busCycle (wrCycle r.addr v) s = { afterCycle s none with ovr := true } := by
  have hw : writeReg (tick s) r.addr v = dropWrite (tick s) := by
    obtain rfl | hrw := r.eq_cmd_or_access_rw hr
    · simp [writeReg, regAt_addr, Reg.access, State.isBusy, hs]
    · simp [writeReg, regAt_addr, hrw, State.isBusy, hs]
  rw [busCycle_wrCycle, hw]
  rfl

/-- A write to an RW register while BUSY = 0 is a store and nothing else (R81). -/
theorem busCycle_wrCycle_rw {s : State} (hs : s.phase = .idle) {r : Reg} (hr : r.access = .rw) (v : Word) :
    busCycle (wrCycle r.addr v) s = storeReg (afterCycle s none) v r := by
  have hw : writeReg (tick s) r.addr v = storeReg (tick s) v r := by
    simp [writeReg, regAt_addr, hr, State.isBusy, hs]
  rw [busCycle_wrCycle, hw]
  cases r <;> rfl

/-- A write to CMD while BUSY = 0 is an acceptance (R80). -/
theorem busCycle_wrCycle_cmd {s : State} (hs : s.phase = .idle) (v : Word) :
    busCycle (wrCycle Reg.cmd.addr v) s = { accept v (tick s) with busRdata := none } := by
  simp [busCycle_wrCycle, writeReg, regAt_addr, Reg.access, State.isBusy, hs]

/-- In no phase do the bits outside the field matter to a write (R77). -/
theorem busCycle_wrCycle_and_fieldMask (s : State) (v : Word) (r : Reg) :
    busCycle (wrCycle r.addr v) s = busCycle (wrCycle r.addr (v &&& r.fieldMask)) s := by
  by_cases hfull : r.fieldWidth = 64
  · rw [Reg.fieldMask_of_full hfull, BitVec.and_allOnes]
  · simp only [busCycle_wrCycle, writeReg, regAt_addr, Reg.access_of_fieldWidth_ne hfull, storeReg_and_fieldMask]

/-- A read of the field of an RW register after a write to it while BUSY = 0 (R81). -/
theorem readWord_busCycle_wrCycle_rw {s : State} (hs : s.phase = .idle) {r : Reg} (hr : r.access = .rw) (v : Word) :
    readWord (busCycle (wrCycle r.addr v) s) r.addr = v &&& r.fieldMask := by
  rw [busCycle_wrCycle_rw hs hr, readWord_addr, readReg_storeReg hr]

/-! ## One read cycle -/

/-- No word on the bus depends on the latency count. -/
@[simp] theorem readWord_tick (s : State) (a : Addr) : readWord (tick s) a = readWord s a := by
  rw [readWord, readWord]
  cases regAt a with
  | none => rfl
  | some r => cases r <;> rfl

/-- A read of which no bit is unspecified returns the stored word and changes no register (R78, R83). -/
theorem busCycle_rdCycle_of_specified {s : State} {a : Addr} (h : unspecifiedBits s a = 0) :
    busCycle (rdCycle a) s = afterCycle s (some (readWord s a)) := by
  have hread := readCycle_of_specified (s := tick s) h
  rwa [readWord_tick] at hread

theorem readWord_of_unmapped {a : Addr} (h : unmapped a) (s : State) : readWord s a = 0 := by
  rw [readWord, regAt_of_unmapped h]

theorem unspecifiedBits_of_unmapped {a : Addr} (h : unmapped a) (s : State) : unspecifiedBits s a = 0 := by
  simp [unspecifiedBits, regAt_of_unmapped h]

/-- CMD is in no command's write-set. -/
theorem inWriteSet_cmd (i : Instr) : inWriteSet i .cmd = false := by
  cases i <;> rfl

theorem unspecifiedBits_cmd (s : State) : unspecifiedBits s Reg.cmd.addr = 0 := by
  rw [unspecifiedBits, regAt_addr]
  cases decode s.curCmd <;> simp [writeBits, inWriteSet_cmd]

/-! ## ERR and OVR: what the events of the machine leave -/

@[simp] theorem storeReg_err (s : State) (v : Word) (r : Reg) : (storeReg s v r).err = s.err := by
  cases r <;> rfl

@[simp] theorem storeReg_ovr (s : State) (v : Word) (r : Reg) : (storeReg s v r).ovr = s.ovr := by
  cases r <;> rfl

/-- A write leaves ERR, or clears it as an acceptance (R76, R80). -/
theorem writeReg_err (s : State) (a : Addr) (v : Word) :
    (writeReg s a v).err = s.err ∨ (writeReg s a v).err = .success := by
  obtain ⟨h, -⟩ | ⟨r, -, -, -, h⟩ | ⟨-, -, h⟩ | ⟨r, -, -, -, h⟩ := writeReg_cases s a v <;> simp [h]

/-- A bus cycle leaves ERR, or clears it as an acceptance or a reset (R76). -/
theorem busCycle_err (c : BusCycle) (s : State) :
    (busCycle c s).err = s.err ∨ (busCycle c s).err = .success := by
  obtain ⟨-, h⟩ | ⟨-, -, -, h⟩ | ⟨-, -, -, h⟩ | ⟨-, -, -, h⟩ | ⟨-, -, -, h⟩ := busCycle_cases c s
  · right; rw [h]; cases c.re <;> rfl
  · simp [h]
  · obtain ⟨w, n, hread⟩ := readCycle_eq (tick s) c.addr
    simp [h, hread]
  · simpa [h, writeCycle] using writeReg_err (tick s) c.addr c.wdata
  · simp [h]

/-- No write clears OVR (R82). -/
theorem writeReg_ovr_of_set {s : State} (hs : s.ovr = true) (a : Addr) (v : Word) :
    (writeReg s a v).ovr = true := by
  obtain ⟨h, -⟩ | ⟨r, -, -, -, h⟩ | ⟨-, -, h⟩ | ⟨r, -, -, -, h⟩ := writeReg_cases s a v <;> simp [h, hs]

/-- Of the bus cycles only a reset clears OVR (R82). -/
theorem busCycle_ovr_of_set {c : BusCycle} (hrst : c.rst = false) {s : State} (hs : s.ovr = true) :
    (busCycle c s).ovr = true := by
  obtain ⟨hrst', -⟩ | ⟨-, -, -, h⟩ | ⟨-, -, -, h⟩ | ⟨-, -, -, h⟩ | ⟨-, -, -, h⟩ := busCycle_cases c s
  · simp [hrst] at hrst'
  · simp [h, hs]
  · obtain ⟨w, n, hread⟩ := readCycle_eq (tick s) c.addr
    simp [h, hread, hs]
  · simpa [h, writeCycle] using writeReg_ovr_of_set (s := tick s) hs c.addr c.wdata
  · simp [h, hs]

theorem hostStep_ovr_of_set {s : State} (hcore : coreReady s = false) (hreset : ¬ nextIsReset s)
    (hs : s.ovr = true) : (hostStep s).ovr = true := by
  obtain ⟨-, h⟩ | ⟨c, rest, hscript, h⟩ | ⟨rest, p, -, h⟩ := hostStep_cases s
  · rw [h]; exact busCycle_ovr_of_set rfl hs
  · have hrst : c.rst = false := by simpa [nextIsReset, hcore, hscript] using hreset
    rw [h]; exact busCycle_ovr_of_set hrst hs
  · rw [h]; exact busCycle_ovr_of_set rfl hs

/-- Of the completions only those of STATUS_CLR and SRST clear OVR (R82). -/
theorem complete_ovr_of_set {i : Instr} (hclr : i ≠ .statusClr) (hsrst : i ≠ .srst) {s : State} (hs : s.ovr = true) :
    (complete s (resultOf i s)).ovr = true := by
  obtain ⟨t, hr, h⟩ | ⟨e, info, -, h⟩ := complete_cases s (resultOf i s)
  · obtain ⟨-, hovr, -⟩ := resultOf_ok_frame hr hsrst
    simpa [h, hclr, hs] using hovr
  · simpa [h] using hs

/-! ## The obligations -/

/-- Settles O13: the write is an acceptance on the state after one host cycle. -/
theorem cmdWriteWhileIdleIsAccepted : Obligations.CmdWriteWhileIdleIsAccepted := by
  unfold Obligations.CmdWriteWhileIdleIsAccepted
  intro s v hidle
  have h := busCycle_wrCycle_cmd hidle v
  exact ⟨h, congrArg busyPort h⟩

/-- Settles O14: each write is a store; the read after it is the field of the value, register by register. -/
theorem rwWriteWhileIdleStoresTheField : Obligations.RwWriteWhileIdleStoresTheField := by
  unfold Obligations.RwWriteWhileIdleStoresTheField
  intro s v hidle t
  have hstore (r : Reg) (hr : r.access = .rw) : busCycle (wrCycle r.addr v) s = storeReg t v r :=
    busCycle_wrCycle_rw hidle hr v
  refine ⟨hstore .keylen rfl, hstore .keyHi rfl, hstore .keyLo rfl, hstore .din rfl, hstore .alphaLen rfl,
    hstore .symLen rfl, fun i => ?_, fun p => ?_, fun a ha hcmd => ?_⟩
  · rw [← Reg.addr_alpha]
    exact hstore (.alpha i) rfl
  · rw [← Reg.addr_sym]
    exact hstore (.sym p) rfl
  · obtain ⟨r, rfl, hr⟩ := exists_reg_of_writable ha
    obtain rfl | hrw := r.eq_cmd_or_access_rw hr
    · exact absurd rfl hcmd
    · rw [readWord_busCycle_wrCycle_rw hidle hrw, Reg.and_fieldMask_eq_ite hrw]

/-- Settles O15: a write to a writable register is dropped while busy; OVR survives every write, every host cycle
without rst and every completion but the two named. -/
theorem writeWhileBusyIsDropped : Obligations.WriteWhileBusyIsDropped := by
  unfold Obligations.WriteWhileBusyIsDropped
  refine ⟨fun s a v hbusy ha => ?_, fun s t hs h ht => ?_⟩
  · obtain ⟨r, rfl, hr⟩ := exists_reg_of_writable ha
    exact busCycle_wrCycle_busy hbusy hr v
  · by_contra hnone
    simp only [not_or] at hnone
    obtain ⟨hclr, hsrst, hreset⟩ := hnone
    suffices t.ovr = true by simp [ht] at this
    obtain ⟨i, hcore, hdec, hstep⟩ | ⟨-, -, hstep⟩ | ⟨hcore, hstep⟩ := step_cases s <;>
      (rw [hstep] at h; cases h)
    · refine complete_ovr_of_set ?_ ?_ hs
      · rintro rfl; exact hclr ⟨hcore, hdec⟩
      · rintro rfl; exact hsrst ⟨hcore, hdec⟩
    · exact hs
    · exact hostStep_ovr_of_set hcore hreset hs

/-- Settles O16: no register stands at an unmapped address, so a read finds 0 and a write finds nothing; ERR is
written by no bus cycle but an acceptance and a reset, which clear it. -/
theorem unmappedAddressesReadZeroIgnoreWrites : Obligations.UnmappedAddressesReadZeroIgnoreWrites := by
  unfold Obligations.UnmappedAddressesReadZeroIgnoreWrites
  refine ⟨fun s a v ha => ⟨?_, ?_⟩, fun s c => busCycle_err c s⟩
  · rw [busCycle_rdCycle_of_specified (unspecifiedBits_of_unmapped ha s), readWord_of_unmapped ha]
  · exact busCycle_wrCycle_ignored (by simp [regAt_of_unmapped ha]) v s

/-- Settles O17: each clause is the fact about the register at its address. -/
theorem accessRightsAreKept : Obligations.AccessRightsAreKept := by
  unfold Obligations.AccessRightsAreKept
  refine ⟨fun s a v ha => ?_, fun s => ?_, fun s => ?_, fun s v => ?_, fun s v hidle => ?_⟩
  · exact busCycle_wrCycle_ignored (fun r hr => Reg.access_of_readOnly_addr (addr_of_regAt hr ▸ ha)) v s
  · exact (busCycle_rdCycle_of_specified (unspecifiedBits_cmd s)).trans (by rw [readWord_addr]; rfl)
  · have hfield (r : Reg) : readWord s r.addr &&& ~~~r.fieldMask = 0 := by
      rw [readWord_addr, readReg_and_not_fieldMask]
    exact ⟨hfield .keylen, hfield .alphaLen, hfield .symLen,
      fun i => Reg.addr_alpha i ▸ hfield (.alpha i), fun p => Reg.addr_sym p ▸ hfield (.sym p)⟩
  · have hfield := busCycle_wrCycle_and_fieldMask s v
    exact ⟨hfield .keylen, hfield .alphaLen, hfield .symLen,
      fun i => Reg.addr_alpha i ▸ hfield (.alpha i), fun p => Reg.addr_sym p ▸ hfield (.sym p)⟩
  · have hread {r : Reg} (hr : r.access = .rw) (hfull : r.fieldWidth = 64) :
        readWord (busCycle (wrCycle r.addr v) s) r.addr = v := by
      rw [readWord_busCycle_wrCycle_rw hidle hr, Reg.fieldMask_of_full hfull, BitVec.and_allOnes]
    exact ⟨hread (r := .keyHi) rfl rfl, hread (r := .keyLo) rfl rfl, hread (r := .din) rfl rfl⟩

end Sys2Proof.Machine

/-! PROOF. Which words the decoder refuses, and what the machine does with them (30_encoding.md R105, R106). -/

namespace Sys2Proof.Machine

open Sys2Proof.Claims

/-! ## The rows of the opcode map (R104) against the reserved ranges (R105 (b)) -/

/-- The NONE rows are the opcodes that are neither reserved nor of form IDX5. -/
theorem noneRows_lookup_isSome_iff (o : BitVec 8) :
    (noneRows.lookup o).isSome ↔ ¬ reservedOpc o.toNat ∧ ¬ idx5Opc o.toNat := by
  revert o
  unfold reservedOpc idx5Opc
  decide +kernel

theorem idx5Rows_lookup_isSome_iff (o : BitVec 8) : (idx5Rows.lookup o).isSome ↔ idx5Opc o.toNat := by
  revert o
  unfold idx5Opc
  decide +kernel

theorem not_reservedOpc_of_idx5Opc {o : Nat} (h : idx5Opc o) : ¬ reservedOpc o := by
  unfold idx5Opc at h
  unfold reservedOpc
  omega

/-- The decoder's four branches are the four clauses of R105: RSV, a NONE row, an IDX5 row, no row. -/
theorem decode_eq_none_iff (v : Word) : decode v = none ↔ illegal v := by
  simp only [decode, illegal]
  generalize v.extractLsb' 0 8 = o
  have hnone := noneRows_lookup_isSome_iff o
  have hidx5 := idx5Rows_lookup_isSome_iff o
  by_cases hrsv : v.extractLsb' 16 48 = 0#48
  · cases hn : noneRows.lookup o with
    | some i =>
      obtain ⟨hres, hform⟩ := hnone.1 (by simp [hn])
      simp [hrsv, hres, hform]
    | none =>
      cases hi : idx5Rows.lookup o with
      | some f =>
        have hform : idx5Opc o.toNat := hidx5.1 (by simp [hi])
        simp [hrsv, hform, not_reservedOpc_of_idx5Opc hform]
      | none =>
        have hform : ¬ idx5Opc o.toNat := by simp [← hidx5, hi]
        have hres : reservedOpc o.toNat := by simpa [hn, hform] using hnone
        simp [hres]
  · simp [hrsv]

/-! ## The completion of a refused word -/

/-- A word that the decoder refuses, in flight and due, raises ILLEGAL_COMMAND of itself (R105). -/
theorem step_of_decode_none {s : State} (hcore : coreReady s = true) (hdec : decode s.curCmd = none) :
    step s = .next (failed s .illegalCommand s.curCmd) := by
  obtain ⟨i, -, hdec', -⟩ | ⟨-, -, hstep⟩ | ⟨hcore', -⟩ := step_cases s
  · simp [hdec] at hdec'
  · exact hstep
  · simp [hcore] at hcore'

/-! ## The obligation -/

/-- Settles O3: the decoder's refusals are R105's clauses; a CMD write while idle is an acceptance whatever the word
is; and the step of a refused word that is due is the failure of ILLEGAL_COMMAND. -/
theorem illegalWordsRaiseIllegalCommand : Obligations.IllegalWordsRaiseIllegalCommand := by
  unfold Obligations.IllegalWordsRaiseIllegalCommand
  refine ⟨decode_eq_none_iff, fun s v hidle _ => ?_, fun s hbusy hlat hill => ?_, rfl⟩
  · have haccept := busCycle_wrCycle_cmd hidle v
    exact ⟨congrArg State.phase haccept, congrArg State.curCmd haccept⟩
  · exact step_of_decode_none ((coreReady_eq_true_iff s).2 ⟨hbusy, hlat⟩) ((decode_eq_none_iff s.curCmd).2 hill)

end Sys2Proof.Machine

/-! PROOF. The substitution commands SLAYER and SLAYER_INV nibble by nibble (42_round_function.md R216, R217). -/

namespace Sys2Proof.Machine

open Sys2Proof.Claims

/-! ## The model's tables against the entries written out in the claims -/

/-- R140 with R145. -/
theorem sEntries_getElem?_toNat : ∀ x : Nibble, sEntries[x.toNat]? = some (sbox x).toNat := by decide

/-- R141 with R145. -/
theorem sInvEntries_getElem?_toNat : ∀ y : Nibble, sInvEntries[y.toNat]? = some (sboxInv y).toNat := by decide

/-- R146: where a substitution follows a list of entries, its layer follows the list in each nibble's place. -/
theorem slayer_nibble_of_entries {t : Nibble → Nibble} {entries : List Nat}
    (ht : ∀ x : Nibble, entries[x.toNat]? = some (t x).toNat) (x : Word) (i : Fin 16) :
    entries[(x.extractLsb' (4 * i.val) 4).toNat]? = some ((slayer x t).extractLsb' (4 * i.val) 4).toNat := by
  rw [slayer_nibble x t i.isLt, ht]

/-! ## The obligation -/

/-- Settles O33: each command completes with the substitution layer of its table in DOUT, and the layer follows the
table's written-out entries nibble by nibble. -/
theorem slayerReplacesEachNibble : Obligations.SlayerReplacesEachNibble := by
  unfold Obligations.SlayerReplacesEachNibble
  intro s
  constructor
  · exact ⟨slayer s.din sbox, exec_eq_complete .slayer s, slayer_nibble_of_entries sEntries_getElem?_toNat s.din⟩
  · exact ⟨slayer s.din sboxInv, exec_eq_complete .slayerInv s,
      slayer_nibble_of_entries sInvEntries_getElem?_toNat s.din⟩

end Sys2Proof.Machine

/-! PROOF. The commands of the key register on their operands and bit by bit (41_key_register.md R170 to R190). -/

namespace Sys2Proof.Machine

open Sys2Proof.Claims

/-! ## The bits of the register functions (R170 to R172) -/

/-- R12: a left rotation by n moves bit i to bit i + n modulo the width, whether or not it passes the top. -/
theorem rotl_getLsbD {w : Nat} (x : BitVec w) {n i : Nat} (hn : n < w) (hi : i < w) :
    (rotl x n).getLsbD ((i + n) % w) = x.getLsbD i := by
  simp only [rotl, BitVec.getLsbD_or, BitVec.getLsbD_shiftLeft, BitVec.getLsbD_ushiftRight]
  by_cases h : i + n < w
  · rw [Nat.mod_eq_of_lt h, BitVec.getLsbD_of_ge x (w - n + (i + n)) (by omega)]
    simp [h]
  · have hwrap : (i + n) % w = i + n - w := by
      rw [Nat.mod_eq_sub_mod (by omega), Nat.mod_eq_of_lt (by omega)]
    rw [hwrap, show w - n + (i + n - w) = i by omega]
    simp [show i + n - w < n by omega]

/-- A counter XORed into a register at bit p reaches the bits p to p + 4 alone. -/
theorem xor_shiftLeft_getLsbD {w : Nat} (k : BitVec w) (ctr : BitVec 5) (p : Nat) {i : Nat} (hi : i < w) :
    (k ^^^ (ctr.setWidth w <<< p)).getLsbD i =
      if p ≤ i ∧ i < p + 5 then (k.getLsbD i ^^ ctr.getLsbD (i - p)) else k.getLsbD i := by
  simp only [BitVec.getLsbD_xor, BitVec.getLsbD_shiftLeft, BitVec.getLsbD_setWidth]
  split
  case isTrue h => simp [hi, show ¬ i < p by omega, show i - p < w by omega]
  case isFalse h =>
    obtain hbelow | habove : i < p ∨ 5 ≤ i - p := by omega
    · simp [hbelow]
    · simp [BitVec.getLsbD_of_ge ctr (i - p) habove]

/-- The top part of three. -/
theorem extractLsb'_append_append_top {u v w : Nat} (a : BitVec u) (b : BitVec v) (c : BitVec w) :
    (a ++ b ++ c).extractLsb' (w + v) u = a := by
  rw [BitVec.extractLsb'_append_eq_of_le (Nat.le_add_right w v), Nat.add_sub_cancel_left,
    BitVec.extractLsb'_append_eq_left]

/-- The middle part of three. -/
theorem extractLsb'_append_append_middle {u v w : Nat} (a : BitVec u) (b : BitVec v) (c : BitVec w) :
    (a ++ b ++ c).extractLsb' w v = b := by
  rw [BitVec.extractLsb'_append_eq_of_le (Nat.le_refl w), Nat.sub_self, BitVec.extractLsb'_append_eq_right]

/-! ## The key of the staged bytes (R175) -/

theorem keyFromBytes_of_len_ten {len : BitVec 8} (h : len.toNat = 10) (hi lo : Word) :
    keyFromBytes len hi lo = some (.v80 (hi ++ lo.extractLsb' 48 16)) := by
  obtain rfl : len = 10 := BitVec.eq_of_toNat_eq h
  rfl

theorem keyFromBytes_of_len_sixteen {len : BitVec 8} (h : len.toNat = 16) (hi lo : Word) :
    keyFromBytes len hi lo = some (.v128 (hi ++ lo)) := by
  obtain rfl : len = 16 := BitVec.eq_of_toNat_eq h
  rfl

theorem keyFromBytes_of_len_other {len : BitVec 8} (h10 : len.toNat ≠ 10) (h16 : len.toNat ≠ 16) (hi lo : Word) :
    keyFromBytes len hi lo = none := by
  have hne10 : len ≠ 10 := fun h => h10 (congrArg BitVec.toNat h)
  have hne16 : len ≠ 16 := fun h => h16 (congrArg BitVec.toNat h)
  rw [keyFromBytes, if_neg hne10, if_neg hne16]

/-! ## What each command completes with (R176 to R190) -/

theorem exec_keyLoad_of_some {s : State} {k : KeyReg} (h : keyFromBytes s.keylen s.keyHi s.keyLo = some k) :
    exec .keyLoad s = .next (succeeded { s with kr := k, keyValid := true }) := by
  rw [exec_eq_complete, resultOf, h]
  rfl

theorem exec_keyLoad_of_none {s : State} (h : keyFromBytes s.keylen s.keyHi s.keyLo = none) :
    exec .keyLoad s = .next (failed s .invalidKeySize (s.keylen.setWidth 64)) := by
  rw [exec_eq_complete, resultOf, h]
  rfl

theorem exec_krClone_of_valid {s : State} (h : s.keyValid = true) :
    exec .krClone s = .next (succeeded { s with wk := s.kr }) := by
  rw [exec_eq_complete, resultOf, requireKey_of_valid h]
  rfl

theorem exec_krClone_of_invalid {s : State} (h : s.keyValid = false) :
    exec .krClone s = .next (failed s .noKey 0) := by
  rw [exec_eq_complete, resultOf, requireKey_of_invalid h, complete_error]

theorem exec_krRotate (s : State) : exec .krRotate s = .next (succeeded { s with wk := krRot s.wk }) :=
  exec_eq_complete .krRotate s

theorem exec_krSubst (s : State) : exec .krSubst s = .next (succeeded { s with wk := krSub s.wk }) :=
  exec_eq_complete .krSubst s

theorem exec_krInject (n : BitVec 5) (s : State) :
    exec (.krInject n) s = .next (succeeded { s with wk := krInj s.wk n }) :=
  exec_eq_complete (.krInject n) s

theorem exec_krExtract (s : State) : exec .krExtract s = .next (succeeded (withDout s (krTop s.wk))) :=
  exec_eq_complete .krExtract s

theorem exec_ksRun_of_valid {s : State} (h : s.keyValid = true) :
    exec .ksRun s = .next (succeeded { s with rk := (schedule s.kr).rk, wk := (schedule s.kr).last }) := by
  rw [exec_eq_complete, resultOf, requireKey_of_valid h]
  rfl

theorem exec_ksRun_of_invalid {s : State} (h : s.keyValid = false) :
    exec .ksRun s = .next (failed s .noKey 0) := by
  rw [exec_eq_complete, resultOf, requireKey_of_invalid h, complete_error]

/-- R173 with R39: Extract is the high storage word. -/
theorem krTop_eq_hiWord (w : KeyReg) : krTop w = w.hiWord := by
  cases w <;> rfl

/-! ## The obligations -/

/-- Settles O24: WK becomes its rotation by 61, whose bits `rotl_getLsbD` gives. -/
theorem krRotate : Obligations.KrRotate := by
  unfold Obligations.KrRotate
  intro s
  constructor
  · intro k hk
    exact ⟨rotl k 61, by rw [exec_krRotate, hk, krRot], fun i => rotl_getLsbD k (by decide) i.isLt⟩
  · intro k hk
    exact ⟨rotl k 61, by rw [exec_krRotate, hk, krRot], fun i => rotl_getLsbD k (by decide) i.isLt⟩

/-- Settles O26: WK becomes the substituted nibbles above its own low bits, and S follows its written-out entries. -/
theorem krSubst : Obligations.KrSubst := by
  unfold Obligations.KrSubst
  intro s
  constructor
  · intro k hk
    refine ⟨sbox (k.extractLsb' 76 4) ++ k.extractLsb' 0 76, by rw [exec_krSubst, hk, krSub],
      BitVec.extractLsb'_append_eq_right, ?_⟩
    rw [BitVec.extractLsb'_append_eq_left, sEntries_getElem?_toNat]
  · intro k hk
    refine ⟨sbox (k.extractLsb' 124 4) ++ sbox (k.extractLsb' 120 4) ++ k.extractLsb' 0 120,
      by rw [exec_krSubst, hk, krSub], BitVec.extractLsb'_append_eq_right, ?_, ?_⟩
    · rw [extractLsb'_append_append_top (w := 120) (v := 4), sEntries_getElem?_toNat]
    · rw [extractLsb'_append_append_middle, sEntries_getElem?_toNat]

/-- Settles O27: WK becomes the register with n XORed in at bit 15 or bit 62, whose bits `xor_shiftLeft_getLsbD`
gives. -/
theorem krInject : Obligations.KrInject := by
  unfold Obligations.KrInject
  intro s n
  constructor
  · intro k hk
    exact ⟨k ^^^ (n.setWidth 80 <<< 15), by rw [exec_krInject, hk, krInj],
      fun i => xor_shiftLeft_getLsbD k n 15 i.isLt⟩
  · intro k hk
    exact ⟨k ^^^ (n.setWidth 128 <<< 62), by rw [exec_krInject, hk, krInj],
      fun i => xor_shiftLeft_getLsbD k n 62 i.isLt⟩

/-- Settles O30: the walk is `krWalk` from KR, whose recursion is the update of R174 and of which `schedule` takes
the tops and the last register. -/
theorem ksRun : Obligations.KsRun := by
  unfold Obligations.KsRun
  exact fun s => ⟨fun hvalid => ⟨krWalk s.kr, rfl, fun _ _ => rfl, exec_ksRun_of_valid hvalid⟩,
    exec_ksRun_of_invalid⟩

/-- Settles O22: the three cases of R175 are the key, of either variant, or the error that R176 completes with. -/
theorem keyLoad : Obligations.KeyLoad := by
  unfold Obligations.KeyLoad
  exact fun s => ⟨fun h10 => exec_keyLoad_of_some (keyFromBytes_of_len_ten h10 s.keyHi s.keyLo),
    fun h16 => exec_keyLoad_of_some (keyFromBytes_of_len_sixteen h16 s.keyHi s.keyLo),
    fun h10 h16 => exec_keyLoad_of_none (keyFromBytes_of_len_other h10 h16 s.keyHi s.keyLo)⟩

/-- Settles O23: the check of the key passes and the copy is written, or it raises. -/
theorem krClone : Obligations.KrClone := by
  unfold Obligations.KrClone
  exact fun _ => ⟨exec_krClone_of_valid, exec_krClone_of_invalid⟩

/-- Settles O29: DOUT becomes the top of WK, which is the high storage word that WK_HI reads as. -/
theorem krExtract : Obligations.KrExtract := by
  unfold Obligations.KrExtract
  intro s
  have hread : readWord s 0x00C = s.wk.hiWord := readWord_addr s .wkHi
  rw [exec_krExtract, hread, krTop_eq_hiWord]
  exact ⟨fun k hk => by rw [hk, KeyReg.hiWord], fun k hk => by rw [hk, KeyReg.hiWord], rfl⟩

end Sys2Proof.Machine

/-! PROOF. The round commands and the layers they are made of (42_round_function.md R210 to R221). -/

namespace Sys2Proof.Machine

open Sys2Proof.Claims

/-! ## What each command completes with (R215 to R221) -/

theorem exec_addkey (n : BitVec 5) (s : State) :
    exec (.addkey n) s = .next (succeeded (withDout s (combine s.din (roundKey s n)))) :=
  exec_eq_complete (.addkey n) s

theorem exec_slayer (s : State) : exec .slayer s = .next (succeeded (withDout s (slayer s.din sbox))) :=
  exec_eq_complete .slayer s

theorem exec_slayerInv (s : State) : exec .slayerInv s = .next (succeeded (withDout s (slayer s.din sboxInv))) :=
  exec_eq_complete .slayerInv s

theorem exec_player (s : State) : exec .player s = .next (succeeded (withDout s (player s.din pTable))) :=
  exec_eq_complete .player s

theorem exec_playerInv (s : State) : exec .playerInv s = .next (succeeded (withDout s (player s.din pInvTable))) :=
  exec_eq_complete .playerInv s

theorem exec_rndFwd (n : BitVec 5) (s : State) :
    exec (.rndFwd n) s = .next (succeeded (withDout s (roundFwd s.din (roundKey s n)))) :=
  exec_eq_complete (.rndFwd n) s

theorem exec_rndInv (n : BitVec 5) (s : State) :
    exec (.rndInv n) s = .next (succeeded (withDout s (roundInv s.din (roundKey s n)))) :=
  exec_eq_complete (.rndInv n) s

/-- The host's move of a result to DIN leaves the round keys, so each layer of one round sees the same key. -/
@[simp] theorem roundKey_withDin (s : State) (v : Word) (n : BitVec 5) :
    roundKey (withDin s v) n = roundKey s n := rfl

/-! ## The obligations -/

/-- Settles O32: ADDKEY n completes with `combine` of DIN and the selected round key, which is their XOR (R210). -/
theorem addkey : Obligations.Addkey := by
  unfold Obligations.Addkey
  intro s n
  rw [exec_addkey, combine, roundKey]

/-- Settles O35: each layer completes with its function of the result before it, and the round's function is their
composition, in the order of R211 and of R212. -/
theorem roundsAreTheirLayers : Obligations.RoundsAreTheirLayers := by
  unfold Obligations.RoundsAreTheirLayers
  intro s n
  constructor
  · refine ⟨combine s.din (roundKey s n), slayer (combine s.din (roundKey s n)) sbox,
      player (slayer (combine s.din (roundKey s n)) sbox) pTable, exec_addkey n s, ?_, ?_, ?_⟩
    · rw [exec_slayer, withDin_din]
    · rw [exec_player, withDin_din]
    · rw [exec_rndFwd, roundFwd]
  · refine ⟨player s.din pInvTable, slayer (player s.din pInvTable) sboxInv,
      combine (slayer (player s.din pInvTable) sboxInv) (roundKey s n), exec_playerInv s, ?_, ?_, ?_⟩
    · rw [exec_slayerInv, withDin_din]
    · rw [exec_addkey, withDin_din, roundKey_withDin]
    · rw [exec_rndInv, roundInv]

end Sys2Proof.Machine

/-! PROOF. ENCRYPT and DECRYPT as the schedule and the rounds they are made of (43_block_cipher.md R240 to R245). -/

namespace Sys2Proof.Machine

open Sys2Proof.Claims

/-! ## The block between two rounds -/

/-- The block of R240 after rounds 0 to i − 1 of the block x. -/
def encryptRounds (rk : Vector Word 32) (x : Word) (i : Nat) : Word := (rk.toList.take i).foldl roundFwd x

/-- The block of R242 after the combine of the block y with the last round key and inverse rounds 30 down to i. -/
def decryptRounds (rk : Vector Word 32) (y : Word) (i : Nat) : Word :=
  ((rk.toList.take numRounds).drop i).foldr (fun k st => roundInv st k) (combine y rk[31])

theorem encryptRounds_zero (rk : Vector Word 32) (x : Word) : encryptRounds rk x 0 = x := rfl

theorem encryptRounds_succ (rk : Vector Word 32) (x : Word) {i : Nat} (hi : i < 32) :
    encryptRounds rk x (i + 1) = roundFwd (encryptRounds rk x i) rk[i] := by
  have htake : rk.toList.take (i + 1) = rk.toList.take i ++ [rk[i]] := by
    rw [List.take_succ_eq_append_getElem (by simpa using hi), Vector.getElem_toList]
  rw [encryptRounds, htake, List.foldl_append, List.foldl_cons, List.foldl_nil, encryptRounds]

theorem encryptWith_eq_combine_encryptRounds (rk : Vector Word 32) (x : Word) :
    encryptWith rk x = combine (encryptRounds rk x 31) rk[31] := rfl

theorem decryptRounds_last (rk : Vector Word 32) (y : Word) : decryptRounds rk y 31 = combine y rk[31] := by
  have hdrop : (rk.toList.take numRounds).drop 31 = [] := List.drop_eq_nil_of_le (List.length_take_le ..)
  rw [decryptRounds, hdrop, List.foldr_nil]

theorem decryptRounds_eq_roundInv (rk : Vector Word 32) (y : Word) {i : Nat} (hi : i < 31) :
    decryptRounds rk y i = roundInv (decryptRounds rk y (i + 1)) rk[i] := by
  have hdrop : (rk.toList.take numRounds).drop i = rk[i] :: (rk.toList.take numRounds).drop (i + 1) := by
    rw [List.drop_eq_getElem_cons (by simpa [numRounds] using hi), List.getElem_take, Vector.getElem_toList]
  rw [decryptRounds, hdrop, List.foldr_cons, decryptRounds]

theorem decryptWith_eq_decryptRounds (rk : Vector Word 32) (y : Word) :
    decryptWith rk y = decryptRounds rk y 0 := rfl

/-! ## What each command completes with (R241, R245) -/

theorem exec_encrypt_of_valid {s : State} (h : s.keyValid = true) :
    exec .encrypt s = .next (succeeded (withDout
      { s with rk := (schedule s.kr).rk, wk := (schedule s.kr).last } (encryptWith (schedule s.kr).rk s.din))) := by
  rw [exec_eq_complete, resultOf, requireKey_of_valid h]
  rfl

theorem exec_encrypt_of_invalid {s : State} (h : s.keyValid = false) :
    exec .encrypt s = .next (failed s .noKey 0) := by
  rw [exec_eq_complete, resultOf, requireKey_of_invalid h, complete_error]

theorem exec_decrypt_of_valid {s : State} (h : s.keyValid = true) :
    exec .decrypt s = .next (succeeded (withDout
      { s with rk := (schedule s.kr).rk, wk := (schedule s.kr).last } (decryptWith (schedule s.kr).rk s.din))) := by
  rw [exec_eq_complete, resultOf, requireKey_of_valid h]
  rfl

theorem exec_decrypt_of_invalid {s : State} (h : s.keyValid = false) :
    exec .decrypt s = .next (failed s .noKey 0) := by
  rw [exec_eq_complete, resultOf, requireKey_of_invalid h, complete_error]

theorem withDout_succeeded (s : State) (v : Word) : withDout (succeeded s) v = succeeded (withDout s v) := rfl

theorem roundKey_ofNat (s : State) {i : Nat} (hi : i < 32) : roundKey s (BitVec.ofNat 5 i) = s.rk[i] := by
  have htoNat : (BitVec.ofNat 5 i).toNat = i := (BitVec.toNat_ofNat i 5).trans (Nat.mod_eq_of_lt hi)
  simp only [roundKey, htoNat]

theorem roundKey_last (s : State) : roundKey s 31 = s.rk[31] := rfl

/-! ## The obligations -/

/-- Settles O38: the block between two rounds is `encryptRounds`, which each RND_FWD i takes one round further with the
round key KS_RUN left, and ADDKEY 31 makes of the last one the result of `encryptWith` (R240). -/
theorem encryptIsItsRounds : Obligations.EncryptIsItsRounds := by
  unfold Obligations.EncryptIsItsRounds
  refine fun s => ⟨fun hvalid => ?_, exec_encrypt_of_invalid⟩
  refine ⟨_, encryptRounds (schedule s.kr).rk s.din, encryptWith (schedule s.kr).rk s.din,
    exec_ksRun_of_valid hvalid, encryptRounds_zero _ _, fun i hi => ?_, ?_, ?_⟩
  · have hi32 : i < 32 := by omega
    rw [exec_rndFwd, withDin_din, roundKey_withDin, roundKey_ofNat _ hi32, succeeded_rk, encryptRounds_succ _ _ hi32]
  · rw [exec_addkey, withDin_din, roundKey_withDin, roundKey_last, succeeded_rk,
      encryptWith_eq_combine_encryptRounds]
  · rw [exec_encrypt_of_valid hvalid, withDout_succeeded]

/-- Settles O39: ADDKEY 31 gives the last block of `decryptRounds`, each RND_INV i takes it one inverse round down with
the round key KS_RUN left, and the block after RND_INV 0 is the result of `decryptWith` (R242). -/
theorem decryptIsItsRounds : Obligations.DecryptIsItsRounds := by
  unfold Obligations.DecryptIsItsRounds
  refine fun s => ⟨fun hvalid => ?_, exec_decrypt_of_invalid⟩
  refine ⟨_, decryptRounds (schedule s.kr).rk s.din, exec_ksRun_of_valid hvalid, ?_, fun i hi => ?_, ?_⟩
  · rw [exec_addkey, withDin_din, roundKey_withDin, roundKey_last, succeeded_rk, decryptRounds_last]
  · have hi32 : i < 32 := by omega
    rw [exec_rndInv, withDin_din, roundKey_withDin, roundKey_ofNat _ hi32, succeeded_rk,
      decryptRounds_eq_roundInv _ _ hi]
  · rw [exec_decrypt_of_valid hvalid, withDout_succeeded, decryptWith_eq_decryptRounds]

end Sys2Proof.Machine

/-! PROOF. The codec's commands on their strings: the first fault ALPHA_COMMIT reports, the digits ENCODE writes and the
sum DECODE forms (44_codec.md R260 to R272). -/

namespace Sys2Proof.Machine

open Sys2Proof.Claims

/-! ## The reports as numbers (R312) -/

theorem toNat_append_eq_add {m n : Nat} (x : BitVec m) (y : BitVec n) :
    (x ++ y).toNat = x.toNat * 2 ^ n + y.toNat := by
  rw [BitVec.toNat_append, ← Nat.shiftLeft_add_eq_or_of_lt y.isLt, Nat.shiftLeft_eq]

theorem duplicateInfo_eq_ofNat {i j : Nat} (hi : i < 2 ^ 16) (hj : j < 2 ^ 16) (c : Symbol) :
    duplicateInfo i j c = BitVec.ofNat 64 (c.toNat * 2 ^ 32 + i * 2 ^ 16 + j) := by
  apply BitVec.eq_of_toNat_eq
  have hc := c.isLt
  rw [duplicateInfo, toNat_append_eq_add, toNat_append_eq_add, BitVec.toNat_ofNat, BitVec.toNat_ofNat,
    BitVec.toNat_ofNat]
  omega

theorem badSymbolInfo_eq_ofNat {p : Nat} (hp : p < 2 ^ 16) (c : Symbol) :
    badSymbolInfo p c = BitVec.ofNat 64 (c.toNat * 2 ^ 32 + p) := by
  have h := duplicateInfo_eq_ofNat (i := 0) (by decide) hp c
  rwa [Nat.zero_mul, Nat.add_zero] at h

/-! ## The first repeated code (R261) -/

/-- Where the first k entries do not repeat, the later of two equal entries stands at k or after it. -/
theorem le_of_nodup_take {l : List Symbol} {i j k : Nat} {c : Symbol} (hn : (l.take k).Nodup) (hij : i < j)
    (hi : l[i]? = some c) (hj : l[j]? = some c) : k ≤ j := by
  by_contra hjk
  have hjl : j < l.length := (List.getElem?_eq_some_iff.1 hj).1
  have hit : i < (l.take k).length := by rw [List.length_take]; omega
  have heq : (l.take k)[i]? = (l.take k)[j]? := by
    rw [List.getElem?_take_of_lt (by omega), List.getElem?_take_of_lt (by omega), hi, hj]
  have := (List.getElem?_inj hit hn).1 heq
  omega

/-- R261: the pair the check reports is the one whose later entry ends the shortest part that repeats a code. -/
theorem firstDuplicate_nil_eq_some_iff {l : List Symbol} {i j : Nat} {c : Symbol} :
    firstDuplicate [] l = some (i, j, c) ↔
      i < j ∧ l[i]? = some c ∧ l[j]? = some c ∧ (l.take j).Nodup := by
  refine ⟨fun h => by simpa using firstDuplicate_eq_some List.nodup_nil h, fun ⟨hij, hi, hj, hn⟩ => ?_⟩
  cases hd : firstDuplicate [] l with
  | none =>
    have hnodup := ((firstDuplicate_eq_none_iff [] l).1 hd).1
    have hle : l.length ≤ j := le_of_nodup_take (by rwa [List.take_length]) hij hi hj
    rw [List.getElem?_eq_none hle] at hj
    cases hj
  | some r =>
    obtain ⟨i', j', c'⟩ := r
    obtain ⟨hij', hi', hj', hn'⟩ := by simpa using firstDuplicate_eq_some List.nodup_nil hd
    obtain rfl : j' = j := le_antisymm (le_of_nodup_take hn' hij hi hj) (le_of_nodup_take hn hij' hi' hj')
    obtain rfl : c' = c := Option.some.inj (hj'.symm.trans hj)
    obtain hlt | rfl | hgt := Nat.lt_trichotomy i' i
    · exact absurd (le_of_nodup_take hn hlt hi' hi) (by omega)
    · rfl
    · exact absurd (le_of_nodup_take hn hgt hi hi') (by omega)

/-- The first j entries of the alphabet do not repeat when no two of the table's first j entries are equal. -/
theorem State.alphabet_take_nodup {s : State} {j : Fin 256} (hj : j.val < s.alphaLen.toNat)
    (h : ∀ j' i' : Fin 256, j' < j → i' < j' → s.alpha[i'] ≠ s.alpha[j']) : (s.alphabet.take j.val).Nodup := by
  rw [List.nodup_iff_getElem?_ne_getElem?]
  intro a b hab hb
  have hbj : b < j.val := hb.trans_le (List.length_take_le ..)
  rw [List.getElem?_take_of_lt (by omega), List.getElem?_take_of_lt hbj,
    s.alphabet_getElem? (by omega) (by omega), s.alphabet_getElem? (by omega) (by omega)]
  simpa using h ⟨b, by omega⟩ ⟨a, by omega⟩ hbj hab

theorem alphaCheck_of_badLen {b : BitVec 9} (h : b.toNat < 2 ∨ 256 < b.toNat) (table : Vector Symbol 256) :
    alphaCheck b table = .badAlphaLen b := by
  rw [alphaCheck, maxAlphabet, if_pos h]

theorem alphaCheck_of_firstDuplicate {s : State} {i j : Nat} {c : Symbol} (h2 : 2 ≤ s.alphaLen.toNat)
    (h256 : s.alphaLen.toNat ≤ 256) (h : firstDuplicate [] s.alphabet = some (i, j, c)) :
    alphaCheck s.alphaLen s.alpha = .duplicateSymbol i j c := by
  rw [State.alphabet] at h
  rw [alphaCheck, maxAlphabet, if_neg (by omega), h]

/-! ## What ALPHA_COMMIT completes with (R262) -/

theorem exec_alphaCommit_of_ok {s : State} (h : alphaCheck s.alphaLen s.alpha = .ok) :
    exec .alphaCommit s = .next (succeeded { s with alphaValid := true }) := by
  rw [exec_eq_complete, resultOf, h, complete_ok]

theorem exec_alphaCommit_of_badAlphaLen {s : State} {b : BitVec 9}
    (h : alphaCheck s.alphaLen s.alpha = .badAlphaLen b) :
    exec .alphaCommit s = .next (failed s .badAlphaLen (b.setWidth 64)) := by
  rw [exec_eq_complete, resultOf, h, complete_error]

theorem exec_alphaCommit_of_duplicateSymbol {s : State} {i j : Nat} {c : Symbol}
    (h : alphaCheck s.alphaLen s.alpha = .duplicateSymbol i j c) :
    exec .alphaCommit s = .next (failed s .duplicateSymbol (duplicateInfo i j c)) := by
  rw [exec_eq_complete, resultOf, h, complete_error]

/-! ## The encoded string (R266, R268) -/

theorem encodeString_length_eq (alphabet : List Symbol) (n : Word) :
    (encodeString alphabet n).length = (digits alphabet.length maxString n.toNat).length :=
  List.length_map ..

theorem lt_pow_encodeString_length {alphabet : List Symbol} (hb : 2 ≤ alphabet.length) (n : Word) :
    n.toNat < alphabet.length ^ (encodeString alphabet n).length := by
  rw [encodeString_length_eq]
  exact lt_pow_digits_length hb _ _ (toNat_lt_base_pow hb n)

theorem encodeString_length_least {alphabet : List Symbol} (hb : 2 ≤ alphabet.length) (n : Word) :
    (encodeString alphabet n).length = 1 ∨ alphabet.length ^ ((encodeString alphabet n).length - 1) ≤ n.toNat := by
  have hpos := (encodeString_length alphabet n).1
  rw [encodeString_length_eq] at hpos ⊢
  exact (digits_length_least hb maxString n.toNat).imp_left fun h => by omega

/-- Position p of the string is the symbol of the digit of weight b^p. -/
theorem encodeString_getElem? {alphabet : List Symbol} {n : Word} {p : Nat}
    (hp : p < (encodeString alphabet n).length) :
    (encodeString alphabet n)[p]? =
      some (alphabet.getD (n.toNat / alphabet.length ^ p % alphabet.length) 0) := by
  rw [encodeString_length_eq] at hp
  rw [encodeString, List.getElem?_map, digits_getElem? _ _ _ _ hp, Option.map_some]

theorem putString_sym_getElem (s : State) (str : List Symbol) (p : Fin 64) :
    (putString s str).sym[p] = (str[p.val]?).getD s.sym[p] := by
  simp [putString]

/-! ## What ENCODE completes with (R267) -/

theorem exec_encode_of_valid {s : State} (h : s.alphaValid = true) :
    exec .encode s = .next (succeeded (putString s (encodeString s.alphabet s.din))) := by
  rw [exec_eq_complete, resultOf, requireAlphabet_of_valid h, complete_ok]

/-! ## The string in the buffer and its indices (R270, R271) -/

/-- The string in SYM[0..SYM_LEN−1], by position. -/
def State.string (s : State) : List Symbol := s.sym.toList.take s.symLen.toNat

theorem State.string_length {s : State} (h : s.symLen.toNat ≤ 64) : s.string.length = s.symLen.toNat := by
  simp [State.string, h]

theorem State.string_getElem? {s : State} {p : Fin 64} (hp : p.val < s.symLen.toNat) :
    s.string[p.val]? = some s.sym[p] := by
  simp [State.string, hp]

/-- A symbol of the string stands at one of the positions in use. -/
theorem State.exists_of_string_getElem? {s : State} {p : Nat} {c : Symbol} (h : s.string[p]? = some c) :
    ∃ q : Fin 64, q.val = p ∧ q.val < s.symLen.toNat ∧ s.sym[q] = c := by
  obtain ⟨hp, -⟩ := List.getElem?_eq_some_iff.1 h
  have hlen : p < s.symLen.toNat ∧ p < 64 := by simpa [State.string] using hp
  refine ⟨⟨p, hlen.2⟩, rfl, hlen.1, ?_⟩
  rw [State.string_getElem? (p := ⟨p, hlen.2⟩) hlen.1] at h
  exact Option.some.inj h

/-- A code stands in the alphabet when the table holds it below ALPHA_LEN. -/
theorem State.mem_alphabet_iff {s : State} {c : Symbol} :
    c ∈ s.alphabet ↔ ∃ i : Fin 256, i.val < s.alphaLen.toNat ∧ s.alpha[i] = c := by
  rw [State.alphabet, List.mem_iff_getElem]
  constructor
  · rintro ⟨i, hi, rfl⟩
    have hlen : i < s.alphaLen.toNat ∧ i < 256 := by simpa using hi
    exact ⟨⟨i, hlen.2⟩, hlen.1, by simp⟩
  · rintro ⟨i, hi, rfl⟩
    exact ⟨i, by simp [hi], by simp⟩

theorem idxOf_of_getElem? {alphabet : List Symbol} (hn : alphabet.Nodup) {d : Nat} {c : Symbol}
    (h : alphabet[d]? = some c) : idxOf alphabet c = some d := by
  obtain ⟨hd, -⟩ := List.getElem?_eq_some_iff.1 h
  simpa [List.getD_eq_getElem?_getD, h] using idxOf_getD hn hd

/-- The least position that holds a code outside the alphabet is the one reported (R271). -/
theorem firstInvalid_of_least {alphabet str : List Symbol} {i : Nat} {c : Symbol} (p : Nat)
    (hi : str[i]? = some c) (hc : c ∉ alphabet) (hlt : ∀ j < i, ∀ d, str[j]? = some d → d ∈ alphabet) :
    firstInvalid alphabet p str = some (p + i, c) := by
  cases hf : firstInvalid alphabet p str with
  | none => exact absurd ((firstInvalid_eq_none_iff alphabet str p).1 hf c (List.mem_of_getElem? hi)) hc
  | some r =>
    obtain ⟨q, c'⟩ := r
    obtain ⟨i', rfl, hi', hc', hlt'⟩ := firstInvalid_eq_some hf
    obtain h | rfl | h := Nat.lt_trichotomy i' i
    · exact absurd (hlt i' h c' hi') hc'
    · rw [Option.some.inj (hi'.symm.trans hi)]
    · exact absurd (hlt' i h c hi) hc

/-- The value of at most m digits, as the sum over m positions with zeros above the digits. -/
theorem ofDigits_eq_sum_fin (b : Nat) {m : Nat} {ds : List Nat} (h : ds.length ≤ m) :
    Nat.ofDigits b ds = ∑ p : Fin m, ds.getD p.val 0 * b ^ p.val := by
  induction ds generalizing m with
  | nil => simp
  | cons d ds ih =>
    obtain _ | m := m
    · simp at h
    · rw [Nat.ofDigits_cons, Fin.sum_univ_succ, ih (Nat.le_of_succ_le_succ h), Finset.mul_sum]
      simp [Nat.pow_succ', Nat.mul_left_comm]

/-- The indices of the string's symbols, by position (R270). -/
def State.indices (s : State) : List Nat := s.string.map fun c => (idxOf s.alphabet c).getD 0

/-- Where d gives the index of every symbol of the string, the indices are d's, with zeros above the string. -/
theorem State.indices_getD {s : State} (hl : LegalAlphabet s) (h64 : s.symLen.toNat ≤ 64) {d : Fin 64 → Fin 256}
    (hd : ∀ p : Fin 64, p.val < s.symLen.toNat → (d p).val < s.alphaLen.toNat ∧ s.alpha[d p] = s.sym[p])
    (p : Fin 64) : s.indices.getD p.val 0 = if p.val < s.symLen.toNat then (d p).val else 0 := by
  obtain ⟨-, -, hn⟩ := (legalAlphabet_iff s).1 hl
  rw [State.indices, List.getD_eq_getElem?_getD, List.getElem?_map]
  split
  case isTrue hp =>
    obtain ⟨hlt, hsym⟩ := hd p hp
    have hidx : idxOf s.alphabet s.sym[p] = some (d p).val :=
      idxOf_of_getElem? hn (by rw [s.alphabet_getElem? hlt (d p).isLt]; exact congrArg some hsym)
    rw [State.string_getElem? hp, Option.map_some, hidx, Option.getD_some, Option.getD_some]
  case isFalse hp =>
    rw [List.getElem?_eq_none (by rw [State.string_length h64]; omega), Option.map_none, Option.getD_none]

/-- R271: with d p the index of the symbol at position p, the positional sum of the string is Σ d p · b^p. -/
theorem State.positionalSum_string {s : State} (hl : LegalAlphabet s) (h64 : s.symLen.toNat ≤ 64)
    {d : Fin 64 → Fin 256}
    (hd : ∀ p : Fin 64, p.val < s.symLen.toNat → (d p).val < s.alphaLen.toNat ∧ s.alpha[d p] = s.sym[p]) :
    positionalSum s.alphabet 0 s.string 0 = BitVec.ofNat 64 (∑ p : Fin 64,
      if p.val < s.symLen.toNat then (d p).val * s.alphaLen.toNat ^ p.val else 0) := by
  have hlen : s.indices.length ≤ 64 := by rwa [State.indices, List.length_map, State.string_length h64]
  have hsum : Nat.ofDigits s.alphaLen.toNat s.indices = ∑ p : Fin 64,
      if p.val < s.symLen.toNat then (d p).val * s.alphaLen.toNat ^ p.val else 0 := by
    rw [ofDigits_eq_sum_fin _ hlen]
    refine Finset.sum_congr rfl fun p _ => ?_
    rw [State.indices_getD hl h64 hd, ite_mul, Nat.zero_mul]
  rw [positionalSum_eq, s.alphabet_length hl.2.1, ← State.indices, hsum]
  simp

/-! ## Decoding a string (R271) -/

theorem decodeString_of_badLen (alphabet : List Symbol) {len : BitVec 7} (h : len.toNat < 1 ∨ 64 < len.toNat)
    (sym : Vector Symbol 64) : decodeString alphabet len sym = .badSymLen len := by
  rw [decodeString, maxString, if_pos h]

theorem decodeString_of_invalid {s : State} (h1 : 1 ≤ s.symLen.toNat) (h64 : s.symLen.toNat ≤ 64) {p : Nat}
    {c : Symbol} (h : firstInvalid s.alphabet 0 s.string = some (p, c)) :
    decodeString s.alphabet s.symLen s.sym = .invalidSymbol p c := by
  rw [State.string] at h
  rw [decodeString, maxString, if_neg (by omega), h]

theorem decodeString_of_valid {s : State} (h1 : 1 ≤ s.symLen.toNat) (h64 : s.symLen.toNat ≤ 64)
    (h : ∀ c ∈ s.string, c ∈ s.alphabet) :
    decodeString s.alphabet s.symLen s.sym = .value (positionalSum s.alphabet 0 s.string 0) := by
  have hnone := (firstInvalid_eq_none_iff s.alphabet s.string 0).2 h
  rw [State.string] at hnone
  rw [decodeString, maxString, if_neg (by omega), hnone, State.string]

/-! ## What DECODE completes with (R272) -/

theorem exec_decode_of_valid {s : State} (h : s.alphaValid = true) :
    exec .decode s = .next (complete s
      (withDecoded (decodeString s.alphabet s.symLen s.sym) fun v => .ok (putDout s v))) := by
  rw [exec_eq_complete, resultOf, requireAlphabet_of_valid h]

theorem exec_decode_of_badSymLen {s : State} (h : s.alphaValid = true) {len : BitVec 7}
    (hd : decodeString s.alphabet s.symLen s.sym = .badSymLen len) :
    exec .decode s = .next (failed s .badSymLen (len.setWidth 64)) := by
  rw [exec_decode_of_valid h, hd, withDecoded, complete_error]

theorem exec_decode_of_invalidSymbol {s : State} (h : s.alphaValid = true) {p : Nat} {c : Symbol}
    (hd : decodeString s.alphabet s.symLen s.sym = .invalidSymbol p c) :
    exec .decode s = .next (failed s .invalidSymbol (badSymbolInfo p c)) := by
  rw [exec_decode_of_valid h, hd, withDecoded, complete_error]

theorem exec_decode_of_value {s : State} (h : s.alphaValid = true) {v : Word}
    (hd : decodeString s.alphabet s.symLen s.sym = .value v) :
    exec .decode s = .next (succeeded (withDout s v)) := by
  rw [exec_decode_of_valid h, hd, withDecoded, complete_ok, putDout_eq_withDout]

/-! ## The obligations -/

/-- Settles O42: the check passes exactly the legal alphabets, and the pair of its report is determined by the least j,
below which no code repeats. -/
theorem alphaCommit : Obligations.AlphaCommit := by
  unfold Obligations.AlphaCommit
  refine fun s => ⟨fun hlegal => exec_alphaCommit_of_ok ((alphaCheck_eq_ok_iff s).2 hlegal), fun hillegal => ?_,
    fun hlen => exec_alphaCommit_of_badAlphaLen (alphaCheck_of_badLen hlen _),
    fun i j h2 h256 hij hj heq hfirst _ => ?_⟩
  · cases hcheck : alphaCheck s.alphaLen s.alpha with
    | ok => exact absurd ((alphaCheck_eq_ok_iff s).1 hcheck) hillegal
    | badAlphaLen b => exact ⟨_, _, by decide, exec_alphaCommit_of_badAlphaLen hcheck⟩
    | duplicateSymbol i j c => exact ⟨_, _, by decide, exec_alphaCommit_of_duplicateSymbol hcheck⟩
  · have hij' : i.val < j.val := hij
    have hi : s.alphabet[i.val]? = some s.alpha[j] := by
      rw [s.alphabet_getElem? (hij'.trans hj) i.isLt]; exact congrArg some heq
    have hdup : firstDuplicate [] s.alphabet = some (i.val, j.val, s.alpha[j]) :=
      firstDuplicate_nil_eq_some_iff.2
        ⟨hij', hi, s.alphabet_getElem? hj j.isLt, State.alphabet_take_nodup hj hfirst⟩
    rw [exec_alphaCommit_of_duplicateSymbol (alphaCheck_of_firstDuplicate h2 h256 hdup),
      duplicateInfo_eq_ofNat (by omega) (by omega)]

/-- Settles O43: the string is `encodeString` of DIN, whose length is the number of digits and whose position p is the
symbol of the digit of weight b^p. -/
theorem encodeWritesTheDigits : Obligations.EncodeWritesTheDigits := by
  unfold Obligations.EncodeWritesTheDigits
  refine fun s => ⟨fun hvalid hlegal => ?_, fun hinvalid => (exec_of_alphaValid_false hinvalid).1⟩
  obtain ⟨h2, h256, -⟩ := hlegal
  have hb : s.alphabet.length = s.alphaLen.toNat := s.alphabet_length h256
  have hb2 : 2 ≤ s.alphabet.length := hb ▸ h2
  obtain ⟨hpos, hle⟩ := encodeString_length s.alphabet s.din
  refine ⟨_, _, exec_encode_of_valid hvalid, hpos, hle, hb ▸ lt_pow_encodeString_length hb2 s.din,
    hb ▸ encodeString_length_least hb2 s.din, fun p d hp hd => ?_, fun p hp => ?_⟩
  · have hdlt : d.val < s.alphaLen.toNat := hd ▸ Nat.mod_lt _ (by omega)
    have hsym : s.alphabet[d.val]? = some s.alpha[d] := s.alphabet_getElem? hdlt d.isLt
    exact (putString_sym_getElem s _ p).trans (by
      rw [encodeString_getElem? hp, hb, ← hd, Option.getD_some, List.getD_eq_getElem?_getD, hsym, Option.getD_some])
  · exact (putString_sym_getElem s _ p).trans (by rw [List.getElem?_eq_none hp, Option.getD_none])

/-- Settles O44: the length is checked first, then the least position outside the alphabet is reported, and a string
inside it decodes to the positional sum, which is the value of the indices as digits. -/
theorem decodeSumsTheDigits : Obligations.DecodeSumsTheDigits := by
  unfold Obligations.DecodeSumsTheDigits
  refine fun s => ⟨fun hinvalid => (exec_of_alphaValid_false hinvalid).2.1, fun hvalid hlegal =>
    ⟨fun hlen => exec_decode_of_badSymLen hvalid (decodeString_of_badLen _ hlen _), fun d h1 h64 hd => ?_,
      fun p h64 hp hbad hgood => ?_⟩⟩
  · have hmem : ∀ c ∈ s.string, c ∈ s.alphabet := fun c hc => by
      obtain ⟨q, hq⟩ := List.mem_iff_getElem?.1 hc
      obtain ⟨p, -, hp, rfl⟩ := State.exists_of_string_getElem? hq
      exact State.mem_alphabet_iff.2 ⟨d p, hd p hp⟩
    rw [exec_decode_of_value hvalid (decodeString_of_valid h1 h64 hmem), State.positionalSum_string hlegal h64 hd,
      withDout]
  · have hout : s.sym[p] ∉ s.alphabet := fun hc => by
      obtain ⟨i, hi, heq⟩ := State.mem_alphabet_iff.1 hc
      exact hbad i hi heq
    have hbefore : ∀ j < p.val, ∀ c, s.string[j]? = some c → c ∈ s.alphabet := fun j hj c hc => by
      obtain ⟨q, rfl, -, rfl⟩ := State.exists_of_string_getElem? hc
      exact State.mem_alphabet_iff.2 (hgood q hj)
    have hfirst := firstInvalid_of_least 0 (State.string_getElem? hp) hout hbefore
    rw [Nat.zero_add] at hfirst
    rw [exec_decode_of_invalidSymbol hvalid (decodeString_of_invalid (by omega) h64 hfirst),
      badSymbolInfo_eq_ofNat (by omega)]

end Sys2Proof.Machine

/-! PROOF. The facade as the cipher and the codec it is made of, and the two control commands that touch flags only
(45_facade_control.md R290 to R304). -/

namespace Sys2Proof.Machine

open Sys2Proof.Claims

/-! ## What WRAP completes with (R291) -/

theorem exec_wrap_of_valid {s : State} (hkey : s.keyValid = true) (halpha : s.alphaValid = true) :
    exec .wrap s = .next (succeeded
      (putString (putDout (putSchedule s (schedule s.kr)) (encryptWith (schedule s.kr).rk s.din))
        (encodeString s.alphabet (encryptWith (schedule s.kr).rk s.din)))) := by
  rw [exec_eq_complete, resultOf, requireKey_of_valid hkey, requireAlphabet_of_valid halpha, complete_ok]

theorem exec_wrap_of_keyInvalid {s : State} (h : s.keyValid = false) :
    exec .wrap s = .next (failed s .noKey 0) := by
  rw [exec_eq_complete, resultOf, requireKey_of_invalid h, complete_error]

/-! ## What UNWRAP completes with (R294) -/

theorem exec_unwrap_of_keyInvalid {s : State} (h : s.keyValid = false) :
    exec .unwrap s = .next (failed s .noKey 0) := by
  rw [exec_eq_complete, resultOf, requireKey_of_invalid h, complete_error]

theorem exec_unwrap_of_valid {s : State} (hkey : s.keyValid = true) (halpha : s.alphaValid = true) :
    exec .unwrap s = .next (complete s (withDecoded (decodeString s.alphabet s.symLen s.sym) fun v =>
      .ok (putDout (putSchedule s (schedule s.kr)) (decryptWith (schedule s.kr).rk v)))) := by
  rw [exec_eq_complete, resultOf, requireKey_of_valid hkey, requireAlphabet_of_valid halpha]

/-- Once the string has decoded to v, what is left of UNWRAP is DECRYPT of v. Both put the same schedule and the same
plaintext, whatever these are, and DIN is the one field in which they differ. -/
theorem exec_unwrap_of_value {s : State} (hkey : s.keyValid = true) (halpha : s.alphaValid = true) {v : Word}
    (hd : decodeString s.alphabet s.symLen s.sym = .value v) :
    ∃ u, exec .decrypt (withDin s v) = .next u ∧ exec .unwrap s = .next (withDin u s.din) := by
  have hdecrypt : exec .decrypt (withDin s v) = .next (succeeded (putDout
      (putSchedule (withDin s v) (schedule s.kr)) (decryptWith (schedule s.kr).rk v))) :=
    exec_decrypt_of_valid (s := withDin s v) hkey
  have hunwrap := exec_unwrap_of_valid hkey halpha
  rw [hd, withDecoded, complete_ok] at hunwrap
  generalize decryptWith (schedule s.kr).rk v = x at hdecrypt hunwrap
  generalize schedule s.kr = sch at hdecrypt hunwrap
  exact ⟨_, hdecrypt, hunwrap⟩

/-- With a key and an alphabet, the string decodes and UNWRAP goes on to DECRYPT, or DECODE and UNWRAP fail alike. -/
theorem exec_decode_unwrap_cases {s : State} (hkey : s.keyValid = true) (halpha : s.alphaValid = true) :
    (∃ v, exec .decode s = .next (succeeded (withDout s v)) ∧
      ∃ u, exec .decrypt (withDin s v) = .next u ∧ exec .unwrap s = .next (withDin u s.din)) ∨
    (∃ e info, e ≠ .success ∧ exec .decode s = .next (failed s e info) ∧
      exec .unwrap s = .next (failed s e info)) := by
  have hunwrap := exec_unwrap_of_valid hkey halpha
  cases hd : decodeString s.alphabet s.symLen s.sym with
  | value v => exact .inl ⟨v, exec_decode_of_value halpha hd, exec_unwrap_of_value hkey halpha hd⟩
  | badSymLen len =>
    rw [hd, withDecoded, complete_error] at hunwrap
    exact .inr ⟨_, _, by decide, exec_decode_of_badSymLen halpha hd, hunwrap⟩
  | invalidSymbol p c =>
    rw [hd, withDecoded, complete_error] at hunwrap
    exact .inr ⟨_, _, by decide, exec_decode_of_invalidSymbol halpha hd, hunwrap⟩

/-- Where every position in use holds a code of the table, the string stays inside the alphabet. -/
theorem State.string_subset_alphabet {s : State}
    (h : ∀ p : Fin 64, p.val < s.symLen.toNat → ∃ i : Fin 256, i.val < s.alphaLen.toNat ∧ s.alpha[i] = s.sym[p]) :
    s.string ⊆ s.alphabet := fun c hc => by
  obtain ⟨q, hq⟩ := List.mem_iff_getElem?.1 hc
  obtain ⟨p, -, hp, rfl⟩ := State.exists_of_string_getElem? hq
  exact State.mem_alphabet_iff.2 (h p hp)

/-! ## The obligations -/

/-- Settles O47: whatever the schedule and the ciphertext c are, the state between ENCRYPT and ENCODE differs from that
inside WRAP by DIN and the completion fields only, and the second completion writes the latter again. -/
theorem wrapIsEncryptThenEncode : Obligations.WrapIsEncryptThenEncode := by
  unfold Obligations.WrapIsEncryptThenEncode
  refine fun s => ⟨fun hkey halpha => ?_, exec_wrap_of_keyInvalid, fun hkey halpha => ?_⟩
  · have hencrypt : exec .encrypt s = .next (succeeded (putDout (putSchedule s (schedule s.kr))
        (encryptWith (schedule s.kr).rk s.din))) := exec_encrypt_of_valid hkey
    have hwrap := exec_wrap_of_valid hkey halpha
    generalize encryptWith (schedule s.kr).rk s.din = c at hencrypt hwrap
    generalize schedule s.kr = sch at hencrypt hwrap
    exact ⟨_, _, hencrypt, exec_encode_of_valid halpha, hwrap, rfl⟩
  · obtain ⟨-, -, hfacade⟩ := exec_of_alphaValid_false halpha
    exact (hfacade hkey).1

/-- Settles O48: the checks come first, then DECODE and UNWRAP branch alike on the decoded string, which for a string
of legal length inside the alphabet is a value. -/
theorem unwrapIsDecodeThenDecrypt : Obligations.UnwrapIsDecodeThenDecrypt := by
  unfold Obligations.UnwrapIsDecodeThenDecrypt
  refine fun s => ⟨exec_unwrap_of_keyInvalid, fun hkey halpha => ?_, fun hkey halpha => ?_,
    fun hkey halpha _ h1 h64 hsym => ?_⟩
  · obtain ⟨-, -, hfacade⟩ := exec_of_alphaValid_false halpha
    exact (hfacade hkey).2
  · obtain ⟨v, hdecode, hdecrypt⟩ | ⟨e, info, herr, hdecode, hunwrap⟩ := exec_decode_unwrap_cases hkey halpha
    · exact ⟨_, hdecode, fun hfail => absurd rfl hfail, fun _ => hdecrypt⟩
    · exact ⟨_, hdecode, fun _ => hunwrap, fun hok => absurd hok herr⟩
  · have hd := decodeString_of_valid h1 h64 fun _ hc => State.string_subset_alphabet hsym hc
    obtain ⟨u, hdecrypt, hunwrap⟩ := exec_unwrap_of_value hkey halpha hd
    exact ⟨_, u, exec_decode_of_value halpha hd, hdecrypt, hunwrap⟩

/-- Settles O52: the result of NOP is the state as it was. -/
theorem nopOnlyCompletes : Obligations.NopOnlyCompletes := by
  unfold Obligations.NopOnlyCompletes
  intro s
  rw [exec_eq_complete, resultOf, complete_ok]

/-- Settles O53: the result of STATUS_CLR is the state with OVR cleared. -/
theorem statusClrClearsOvr : Obligations.StatusClrClearsOvr := by
  unfold Obligations.StatusClrClearsOvr
  intro s
  rw [exec_eq_complete, resultOf, complete_ok]

end Sys2Proof.Machine

/-! PROOF. What a command that raises leaves as it was (60_exceptions.md R310 to R314). -/

namespace Sys2Proof.Machine

open Sys2Proof.Claims

/-- Settles O57: every command answers one completion of its result. A success has ERR = success, and a raise is
`failed` of the state before; its code is never success, so the last clause asks nothing of it. -/
theorem failedCommandChangesOnlyTheError : Obligations.FailedCommandChangesOnlyTheError := by
  unfold Obligations.FailedCommandChangesOnlyTheError
  intro i s
  refine ⟨_, exec_eq_complete i s, ?_⟩
  obtain ⟨t, -, hok⟩ | ⟨e, info, hr, hfail⟩ := complete_cases s (resultOf i s)
  · rw [hok]
    exact ⟨fun herr => absurd rfl herr, rfl, rfl, fun _ => rfl⟩
  · obtain ⟨hraise, -, -⟩ := resultOf_error hr
    rw [hfail]
    exact ⟨fun _ => rfl, rfl, rfl, fun hok => absurd hok hraise⟩

end Sys2Proof.Machine

/-! PROOF. The reset input, and what every other cycle leaves of a command in flight (70_reset_and_hazards.md R340,
R341). -/

namespace Sys2Proof.Machine

open Sys2Proof.Claims

/-- A cycle with rst = 1 is a reset cycle whatever its other ports hold (R340). -/
theorem busCycle_of_rst {c : BusCycle} (h : c.rst = true) (s : State) :
    busCycle c s = resetCycle (tick s) c.re := if_pos h

/-- A reset cycle leaves the reset state, but for the read port and the model's own fields (R55, R340; log entry 10). -/
theorem resetCycle_eq (s : State) (re : Bool) :
    resetCycle s re =
      { State.reset with
        busRdata := if re then some (Config.freeWord s.draws) else none,
        draws := if re then s.draws + 1 else s.draws,
        lats := s.lats, script := s.script } := by
  cases re <;> rfl

/-- While BUSY = 1 a write is ignored or dropped: nothing is stored and no command is accepted (R76, R77, R82). -/
theorem writeReg_of_busy {s : State} (hs : s.phase = .busy) (a : Addr) (v : Word) :
    writeReg s a v = s ∨ writeReg s a v = dropWrite s := by
  obtain ⟨h, -⟩ | ⟨r, -, -, -, h⟩ | ⟨-, hidle, -⟩ | ⟨r, -, -, hidle, -⟩ := writeReg_cases s a v
  · exact .inl h
  · exact .inr h
  · cases hs.symm.trans hidle
  · cases hs.symm.trans hidle

/-- No bus cycle but a reset ends or replaces the command in flight (R82, R341). -/
theorem busCycle_keeps_command {c : BusCycle} (hrst : c.rst = false) {s : State} (hs : s.phase = .busy) :
    (busCycle c s).phase = .busy ∧ (busCycle c s).curCmd = s.curCmd := by
  obtain ⟨hrst', -⟩ | ⟨-, -, -, h⟩ | ⟨-, -, -, h⟩ | ⟨-, -, -, h⟩ | ⟨-, -, -, h⟩ := busCycle_cases c s
  · simp [hrst] at hrst'
  · simp [h, hs]
  · obtain ⟨w, n, hread⟩ := readCycle_eq (tick s) c.addr
    simp [h, hread, hs]
  · obtain hw | hw := writeReg_of_busy (s := tick s) hs c.addr c.wdata <;> simp [h, writeCycle, hw, hs]
  · simp [h, hs]

/-- Settles O12: a cycle with rst = 1 is a reset cycle, and any other cycle keeps the command in flight. -/
theorem resetInputAbandonsTheCommand : Obligations.ResetInputAbandonsTheCommand := by
  unfold Obligations.ResetInputAbandonsTheCommand
  refine fun s c => ⟨fun hrst => ?_, fun hrst hs => busCycle_keeps_command hrst hs⟩
  rw [busCycle_of_rst hrst, resetCycle_eq]
  rfl

end Sys2Proof.Machine

/-! PROOF. The decoder and the encoder as one bijection between the commands and the legal words (30_encoding.md R101 to
R106). -/

namespace Sys2Proof.Machine

/-! ## The fields of a command word (R101) -/

/-- The word of a command by its fields RSV, ARG and OPC. -/
theorem encode_eq_append (i : Instr) : encode i = (0 : BitVec 48) ++ (i.arg ++ i.opc) :=
  BitVec.setWidth_eq_append (by decide)

theorem encode_rsv (i : Instr) : (encode i).extractLsb' 16 48 = 0 := by
  rw [encode_eq_append]
  exact BitVec.extractLsb'_append_eq_left

theorem encode_arg (i : Instr) : (encode i).extractLsb' 8 8 = i.arg := by
  rw [encode_eq_append, BitVec.extractLsb'_append_eq_of_add_le (by decide)]
  exact BitVec.extractLsb'_append_eq_left

theorem encode_opc (i : Instr) : (encode i).extractLsb' 0 8 = i.opc := by
  rw [encode_eq_append, BitVec.extractLsb'_append_eq_of_add_le (by decide)]
  exact BitVec.extractLsb'_append_eq_right

/-- A word whose RSV is 0 and whose ARG and OPC are a command's is the command's word. -/
theorem encode_eq_of_fields {i : Instr} {v : Word} (hrsv : v.extractLsb' 16 48 = 0) (harg : v.extractLsb' 8 8 = i.arg)
    (hopc : v.extractLsb' 0 8 = i.opc) : encode i = v := by
  rw [encode_eq_append, ← hrsv, ← harg, ← hopc, BitVec.extractLsb'_append_extractLsb'_eq_extractLsb' (by rfl),
    BitVec.extractLsb'_append_extractLsb'_eq_extractLsb' (by rfl), BitVec.extractLsb'_eq_self]

/-! ## The rows of the opcode map (R104) -/

theorem noneRows_fields : ∀ row ∈ noneRows, row.2.opc = row.1 ∧ row.2.arg = 0 := by decide

theorem idx5Rows_fields : ∀ row ∈ idx5Rows, ∀ n, (row.2 n).opc = row.1 ∧ (row.2 n).arg = n.setWidth 8 := by
  decide

theorem mem_of_lookup_eq_some {α : Type} {rows : List (BitVec 8 × α)} {o : BitVec 8} {x : α}
    (h : rows.lookup o = some x) : (o, x) ∈ rows := by
  obtain ⟨l₁, l₂, rfl, -⟩ := List.lookup_eq_some_iff.1 h
  simp

/-- The operand field of form IDX5: ARG is the zero-extended n when ARG[7:5] is 0 and ARG[4:0] is n (R102, R103). -/
theorem arg_eq_setWidth_iff (v : Word) (n : BitVec 5) :
    v.extractLsb' 8 8 = n.setWidth 8 ↔ v.extractLsb' 13 3 = 0 ∧ v.extractLsb' 8 5 = n := by
  have hsplit : v.extractLsb' 8 8 = v.extractLsb' 13 3 ++ v.extractLsb' 8 5 := by
    rw [BitVec.extractLsb'_append_extractLsb'_eq_extractLsb' (by rfl)]
  have hzero : n.setWidth 8 = (0 : BitVec 3) ++ n := BitVec.setWidth_eq_append (by decide)
  rw [hsplit, hzero]
  constructor
  · intro h
    have htop := congrArg (BitVec.extractLsb' 5 3) h
    have hlow := congrArg (BitVec.extractLsb' 0 5) h
    simp only [BitVec.extractLsb'_append_eq_left, BitVec.extractLsb'_append_eq_right] at htop hlow
    exact ⟨htop, hlow⟩
  · rintro ⟨htop, hlow⟩
    rw [htop, hlow]

/-- Every command stands in one row of the map: alone in a NONE row, or with its operand in an IDX5 row. -/
theorem lookup_opc_cases (i : Instr) :
    (noneRows.lookup i.opc = some i ∧ i.arg = 0) ∨
    ∃ f n, noneRows.lookup i.opc = none ∧ idx5Rows.lookup i.opc = some f ∧ i = f n ∧ i.arg = n.setWidth 8 := by
  cases i with
  | krInject n => exact .inr ⟨.krInject, n, rfl, rfl, rfl, rfl⟩
  | krUpdate n => exact .inr ⟨.krUpdate, n, rfl, rfl, rfl, rfl⟩
  | addkey n => exact .inr ⟨.addkey, n, rfl, rfl, rfl, rfl⟩
  | rndFwd n => exact .inr ⟨.rndFwd, n, rfl, rfl, rfl, rfl⟩
  | rndInv n => exact .inr ⟨.rndInv, n, rfl, rfl, rfl, rfl⟩
  | _ => exact .inl ⟨rfl, rfl⟩

/-! ## Decoding and encoding -/

theorem decode_encode (i : Instr) : decode (encode i) = some i := by
  rw [decode, if_neg (not_not.2 (encode_rsv i)), encode_opc]
  obtain ⟨hnone, harg⟩ | ⟨f, n, hnone, hidx5, hi, harg⟩ := lookup_opc_cases i
  · rw [hnone, encode_arg, harg]
    rfl
  · obtain ⟨htop, hlow⟩ := (arg_eq_setWidth_iff _ n).1 ((encode_arg i).trans harg)
    rw [hnone, hidx5, htop, hlow, hi]
    rfl

/-- The decoder's two accepting branches: a NONE row with ARG 0, and an IDX5 row with ARG[7:5] = 0. -/
theorem encode_eq_of_decode {v : Word} {i : Instr} (h : decode v = some i) : encode i = v := by
  rw [decode] at h
  split at h
  · cases h
  · rename_i hrsv
    have hrsv := not_not.1 hrsv
    split at h
    · rename_i j hlookup
      obtain ⟨harg, hj⟩ := Option.ite_none_right_eq_some.1 h
      cases hj
      obtain ⟨hopc, hargj⟩ := noneRows_fields _ (mem_of_lookup_eq_some hlookup)
      exact encode_eq_of_fields hrsv (harg.trans hargj.symm) hopc.symm
    · split at h
      · rename_i f hlookup
        obtain ⟨htop, hi⟩ := Option.ite_none_right_eq_some.1 h
        cases hi
        obtain ⟨hopc, hargf⟩ := idx5Rows_fields _ (mem_of_lookup_eq_some hlookup) (v.extractLsb' 8 5)
        exact encode_eq_of_fields hrsv (((arg_eq_setWidth_iff v _).2 ⟨htop, rfl⟩).trans hargf.symm) hopc.symm
      · cases h

/-- Every operand is legal for its command's form (R102). -/
theorem instr_wf (i : Instr) : i.wf = true := by
  have hidx5 (n : BitVec 5) : (n.setWidth 8).extractLsb' 5 3 = 0 := by revert n; decide
  cases i with
  | krInject n | krUpdate n | addkey n | rndFwd n | rndInv n =>
    exact beq_iff_eq.2 (hidx5 n)
  | _ => rfl

/-! ## The obligations -/

/-- Settles O1: the fields of the word are the command's, and the command's row is the one the decoder finds. -/
theorem decodeOfEncodeIsTheCommand : Obligations.DecodeOfEncodeIsTheCommand := by
  unfold Obligations.DecodeOfEncodeIsTheCommand
  exact fun i => ⟨instr_wf i, decode_encode i⟩

/-- Settles O2: each accepting branch of the decoder has checked RSV, ARG and OPC, which make up the word. -/
theorem decodedWordIsTheCommandsWord : Obligations.DecodedWordIsTheCommandsWord := by
  unfold Obligations.DecodedWordIsTheCommandsWord
  exact fun _ _ => encode_eq_of_decode

/-- Settles O4: each word is a constant, on which the decoder evaluates to the row the claim names. -/
theorem wordsOfTheOpcodeMapDecode : Obligations.WordsOfTheOpcodeMapDecode := by
  unfold Obligations.WordsOfTheOpcodeMapDecode
  decide

end Sys2Proof.Machine

/-! PROOF. What one step can be (10_state.md R30, 20_memory.md R84, R86), and what every step keeps or may write: the
invariant, KR, RK, and that a command in flight ends. -/

namespace Sys2Proof.Machine

open Sys2Proof.Claims

/-! ## The events of the host (R71 to R83) -/

/-- s with the host's side moved on: the read port, the latency count, the program and the count of draws. No register
of the core is among them. -/
def State.withHostSide (s : State) (rdata : Option Word) (lat : Nat) (script : List HostInstr) (draws : Nat) : State :=
  { s with busRdata := rdata, latLeft := lat, script := script, draws := draws }

/-- What a host cycle that is no reset does to the registers: a write is dropped while BUSY = 1, accepted as a command
or stored while BUSY = 0, and any other cycle keeps them all (R76 to R83). -/
inductive RegisterEvent (s : State) : State → Prop
  | keep : RegisterEvent s s
  | drop (hbusy : s.phase = .busy) : RegisterEvent s (dropWrite s)
  | accept (hidle : s.phase = .idle) (v : Word) : RegisterEvent s (accept v s)
  | store (hidle : s.phase = .idle) (v : Word) (r : Reg) : RegisterEvent s (storeReg s v r)

/-- A write is one event of the registers, whatever the host's side is, and counts no host cycle while BUSY = 1. -/
theorem writeReg_event (s : State) (rdata : Option Word) (lat : Nat) (script : List HostInstr) (draws : Nat) (a : Addr)
    (v : Word) : ∃ w lat', RegisterEvent s w ∧ (s.phase = .busy → lat' = lat) ∧
      writeReg (s.withHostSide rdata lat script draws) a v = w.withHostSide rdata lat' script draws := by
  obtain ⟨h, -⟩ | ⟨-, -, -, hbusy, h⟩ | ⟨-, hidle, h⟩ | ⟨r, -, -, hidle, h⟩ :=
    writeReg_cases (s.withHostSide rdata lat script draws) a v
  · exact ⟨_, _, .keep, fun _ => rfl, h⟩
  · exact ⟨_, _, .drop hbusy, fun _ => rfl, h⟩
  · exact ⟨accept v s, _, .accept (s := s) hidle v, fun hbusy => absurd (hbusy.symm.trans hidle) (by decide), h⟩
  · refine ⟨storeReg s v r, lat, .store (s := s) hidle v r, fun _ => rfl, h.trans ?_⟩
    cases r <;> rfl

/-- A bus cycle without rst is one event of the registers, and one host cycle for a command in flight. -/
theorem busCycle_event {c : BusCycle} (hrst : c.rst = false) (s : State) (script : List HostInstr) :
    ∃ w rdata lat draws, RegisterEvent s w ∧ (s.phase = .busy → lat = s.latLeft - 1) ∧
      busCycle c { s with script := script } = w.withHostSide rdata lat script draws := by
  obtain ⟨hrst', -⟩ | ⟨-, -, -, h⟩ | ⟨-, -, -, h⟩ | ⟨-, -, -, h⟩ | ⟨-, -, -, h⟩ :=
    busCycle_cases c { s with script := script }
  · cases hrst.symm.trans hrst'
  · exact ⟨s, _, _, _, .keep, fun _ => rfl, h⟩
  · obtain ⟨v, n, hread⟩ := readCycle_eq (tick { s with script := script }) c.addr
    exact ⟨s, _, _, _, .keep, fun _ => rfl, h.trans hread⟩
  · obtain ⟨w, lat, hevent, hlat, hwrite⟩ :=
      writeReg_event s s.busRdata (s.latLeft - 1) script s.draws c.addr c.wdata
    refine ⟨w, none, lat, s.draws, hevent, hlat, h.trans ?_⟩
    exact congrArg (fun u : State => { u with busRdata := none }) hwrite
  · exact ⟨s, _, _, _, .keep, fun _ => rfl, h⟩

/-! ## One step -/

/-- The step from s to t is the completion of the command that CUR_CMD encodes, the failure of an Illegal word, a reset
cycle, or one event of the registers that the host makes. -/
theorem step_event {s t : State} (h : step s = .next t) :
    (∃ i, nextCompletes s i ∧ t = complete s (resultOf i s)) ∨
    (coreReady s = true ∧ t = failed s .illegalCommand s.curCmd) ∨
    (nextIsReset s ∧ ∃ u re, t = resetCycle u re) ∨
    (∃ w rdata lat script draws, RegisterEvent s w ∧ (s.phase = .busy → lat = s.latLeft - 1) ∧
      t = w.withHostSide rdata lat script draws) := by
  obtain ⟨i, hcore, hdec, hstep⟩ | ⟨hcore, -, hstep⟩ | ⟨hcore, hstep⟩ := step_cases s <;>
    (rw [hstep] at h; cases h)
  · exact .inl ⟨i, ⟨hcore, hdec⟩, rfl⟩
  · exact .inr (.inl ⟨hcore, rfl⟩)
  · refine .inr (.inr ?_)
    obtain ⟨-, h⟩ | ⟨c, rest, hscript, h⟩ | ⟨rest, script, -, h⟩ := hostStep_cases s
    · obtain ⟨w, rdata, lat, draws, hevent, hlat, hbus⟩ := busCycle_event (c := idleCycle) rfl s s.script
      exact .inr ⟨w, rdata, lat, _, draws, hevent, hlat, h.trans hbus⟩
    · cases hrst : c.rst with
      | true => exact .inl ⟨⟨hcore, c, rest, hscript, hrst⟩, _, _, h.trans (busCycle_of_rst hrst _)⟩
      | false =>
        obtain ⟨w, rdata, lat, draws, hevent, hlat, hbus⟩ := busCycle_event hrst s rest
        exact .inr ⟨w, rdata, lat, _, draws, hevent, hlat, h.trans hbus⟩
    · obtain ⟨w, rdata, lat, draws, hevent, hlat, hbus⟩ :=
        busCycle_event (c := rdCycle Reg.status.addr) rfl s s.script
      refine .inr ⟨w, rdata, lat, script, draws, hevent, hlat, h.trans ?_⟩
      exact congrArg (fun u : State => { u with script := script }) hbus

theorem step_of_decode_some {s : State} (hcore : coreReady s = true) {i : Instr} (hdec : decode s.curCmd = some i) :
    step s = exec i s := by
  rw [step, if_pos hcore, hdec]

theorem step_of_not_coreReady {s : State} (hcore : coreReady s = false) : step s = .next (hostStep s) := by
  rw [step, if_neg (by simp [hcore])]

/-! ## The invariant -/

/-- The default alphabet passes the check of R261. -/
theorem legalAlphabet_reset : LegalAlphabet State.reset :=
  (alphaCheck_eq_ok_iff State.reset).1 (by decide +kernel)

theorem inv_reset : Inv State.reset :=
  ⟨fun _ => legalAlphabet_reset, nofun, ⟨by decide, fun _ => rfl⟩, fun _ => rfl, .inl rfl⟩

/-- An event of the registers keeps the invariant: an acceptance clears the completion fields, and a store to the
symbol table clears ALPHA_VALID (R47, R80). -/
theorem RegisterEvent.inv {s w : State} (h : RegisterEvent s w) (hinv : Inv s) : Inv w := by
  cases h with
  | keep | drop => exact hinv
  | accept =>
    obtain ⟨halpha, -, -, hkey, hrk⟩ := hinv
    exact ⟨halpha, fun _ => ⟨rfl, rfl, rfl⟩, ⟨by simp, fun _ => rfl⟩, hkey, hrk⟩
  | store _ v r =>
    cases r with
    | alphaLen | alpha =>
      obtain ⟨-, hrest⟩ := hinv
      exact ⟨nofun, hrest⟩
    | _ => exact hinv

theorem inv_resetCycle (s : State) (re : Bool) : Inv (resetCycle s re) := by
  cases re <;> exact inv_reset

/-- A command that raises keeps the invariant: its code is neither success nor the reserved one (R311, R314). -/
theorem inv_failed {s : State} (hinv : Inv s) {e : ErrKind} (hsuccess : e ≠ .success)
    (hreserved : e ≠ .unsupportedBlockSize) (info : Word) : Inv (failed s e info) := by
  obtain ⟨halpha, -, -, hkey, hrk⟩ := hinv
  exact ⟨halpha, nofun, ⟨hreserved, fun h => absurd h hsuccess⟩, hkey, hrk⟩

theorem legalAlphabet_congr {s t : State} (hlen : t.alphaLen = s.alphaLen) (htable : t.alpha = s.alpha) :
    LegalAlphabet t ↔ LegalAlphabet s := by
  simp only [LegalAlphabet, hlen, htable]

/-- A command that succeeds keeps the invariant: only a passed check sets ALPHA_VALID, a key that is written is marked
valid, and round keys are written as the schedule of KR. -/
theorem inv_succeeded {i : Instr} {s t : State} (hinv : Inv s) (h : resultOf i s = .ok t) : Inv (succeeded t) := by
  obtain ⟨halpha, -, -, hkey, hrk⟩ := hinv
  by_cases hi : i = .srst
  · subst hi
    cases h
    exact ⟨fun _ => legalAlphabet_reset, nofun, ⟨by simp, fun _ => rfl⟩, fun _ => rfl, .inl rfl⟩
  · obtain ⟨⟨-, -, -, -, -, hlen, htable, -⟩, -, hvalid, hkr, hrk'⟩ := resultOf_ok_frame h hi
    have hlegal : LegalAlphabet (succeeded t) ↔ LegalAlphabet s := legalAlphabet_congr hlen htable
    refine ⟨fun ht => hlegal.2 ?_, nofun, ⟨by simp, fun _ => rfl⟩, fun ht => ?_, ?_⟩
    · obtain hsame | ⟨-, -, hok⟩ := hvalid
      · exact halpha (hsame ▸ ht)
      · exact (alphaCheck_eq_ok_iff s).1 hok
    · obtain ⟨hsame, hkv⟩ | ⟨-, hset⟩ := hkr
      · exact hsame.trans (hkey (hkv ▸ ht))
      · exact absurd (hset.symm.trans ht) (by decide)
    · obtain hsame | ⟨-, hsched⟩ := hrk'
      · exact hrk.imp hsame.trans fun ⟨k, hk⟩ => ⟨k, hsame.trans hk⟩
      · exact .inr ⟨s.kr, hsched⟩

theorem inv_complete {s : State} (hinv : Inv s) (i : Instr) : Inv (complete s (resultOf i s)) := by
  obtain ⟨t, hr, h⟩ | ⟨e, info, hr, h⟩ := complete_cases s (resultOf i s)
  · rw [h]
    exact inv_succeeded hinv hr
  · obtain ⟨hsuccess, hreserved, -⟩ := resultOf_error hr
    rw [h]
    exact inv_failed hinv hsuccess hreserved info

/-! ## KR and RK (R38, R42) -/

/-- No event of the registers writes KR, KEY_VALID or RK. -/
theorem RegisterEvent.keeps_keys {s w : State} (h : RegisterEvent s w) :
    w.kr = s.kr ∧ w.keyValid = s.keyValid ∧ w.rk = s.rk := by
  cases h with
  | keep | drop | accept => exact ⟨rfl, rfl, rfl⟩
  | store _ v r => cases r <;> exact ⟨rfl, rfl, rfl⟩

/-- Of the completions only those of a KEY_LOAD that succeeds and of SRST write KR or KEY_VALID. -/
theorem complete_key_cases (i : Instr) (s : State) :
    ((complete s (resultOf i s)).kr = s.kr ∧ (complete s (resultOf i s)).keyValid = s.keyValid) ∨
      (i = .keyLoad ∧ (complete s (resultOf i s)).err = .success) ∨ i = .srst := by
  obtain ⟨t, hr, h⟩ | ⟨e, info, -, h⟩ := complete_cases s (resultOf i s)
  · by_cases hi : i = .srst
    · exact .inr (.inr hi)
    · obtain ⟨-, -, -, hkeep | ⟨hload, -⟩, -⟩ := resultOf_ok_frame hr hi
      · exact .inl (by simpa [h] using hkeep)
      · exact .inr (.inl ⟨hload, by simp [h]⟩)
  · exact .inl (by simp [h])

/-- A completion leaves RK, writes the schedule of KR to it, or, under SRST, its reset value. -/
theorem complete_rk_cases (i : Instr) (s : State) :
    (complete s (resultOf i s)).rk = s.rk ∨
      (derivesKeys i ∧ (complete s (resultOf i s)).rk = (schedule s.kr).rk) ∨
      (i = .srst ∧ (complete s (resultOf i s)).rk = State.reset.rk) := by
  obtain ⟨t, hr, h⟩ | ⟨e, info, -, h⟩ := complete_cases s (resultOf i s)
  · rw [h]
    by_cases hi : i = .srst
    · subst hi
      cases hr
      exact .inr (.inr ⟨rfl, rfl⟩)
    · obtain ⟨-, -, -, -, hrk⟩ := resultOf_ok_frame hr hi
      exact hrk.imp_right .inl
  · exact .inl (by simp [h])

theorem resetCycle_rk (s : State) (re : Bool) : (resetCycle s re).rk = State.reset.rk := by
  cases re <;> rfl

theorem reset_rk_getElem (i : Fin 32) : State.reset.rk[i] = 0 := by
  simp [State.reset]

/-- KR is not on the bus: of the registers only STATUS, by KEY_VAR, reads differently for another KR (R33, R38). -/
theorem readReg_kr (s : State) (k : KeyReg) {r : Reg} (h : k.variant = s.kr.variant ∨ r ≠ .status) :
    readReg { s with kr := k } r = readReg s r := by
  cases r with
  | status =>
    obtain hvar | hne := h
    · simp only [readReg, statusWord, hvar]
      rfl
    · exact absurd rfl hne
  | _ => rfl

/-! ## A command in flight ends (R360) -/

theorem complete_phase (s : State) (r : CmdResult) : (complete s r).phase = .idle := by
  cases r <;> rfl

theorem resetCycle_phase (s : State) (re : Bool) : (resetCycle s re).phase = .idle := by
  cases re <;> rfl

theorem RegisterEvent.phase_of_busy {s w : State} (h : RegisterEvent s w) (hbusy : s.phase = .busy) :
    w.phase = .busy := by
  cases h with
  | keep | drop => exact hbusy
  | accept => rfl
  | store hidle => exact absurd (hbusy.symm.trans hidle) (by decide)

theorem exists_step_next (s : State) : ∃ t, step s = .next t := by
  obtain ⟨i, -, -, h⟩ | ⟨-, -, h⟩ | ⟨-, h⟩ := step_cases s <;> exact ⟨_, h⟩

/-- A step of a command in flight ends it, or takes one host cycle of its latency. -/
theorem step_of_busy {s t : State} (hbusy : s.phase = .busy) (h : step s = .next t) :
    t.phase = .idle ∨ (s.latLeft ≠ 0 ∧ t.phase = .busy ∧ t.latLeft = s.latLeft - 1) := by
  by_cases hcore : coreReady s = true
  · left
    obtain ⟨i, -, -, hstep⟩ | ⟨-, -, hstep⟩ | ⟨hcore', -⟩ := step_cases s
    · cases hstep.symm.trans h
      exact complete_phase s _
    · cases hstep.symm.trans h
      rfl
    · exact absurd (hcore.symm.trans hcore') (by decide)
  · have hlat0 : s.latLeft ≠ 0 := fun h0 => hcore ((coreReady_eq_true_iff s).2 ⟨hbusy, h0⟩)
    obtain ⟨i, ⟨hcore', -⟩, -⟩ | ⟨hcore', -⟩ | ⟨-, u, re, rfl⟩ | ⟨w, rdata, lat, script, draws, hevent, hlat, rfl⟩ :=
      step_event h
    · exact absurd hcore' hcore
    · exact absurd hcore' hcore
    · exact .inl (resetCycle_phase u re)
    · exact .inr ⟨hlat0, hevent.phase_of_busy hbusy, hlat hbusy⟩

theorem run_succ_of_step {M : Host.Core} {s t : M.State} (h : M.step s = .next t) (k : Nat) :
    M.run (k + 1) s = M.run k t := by
  rw [Host.Core.run, h]

/-- By induction on the host cycles left before the completion. -/
theorem exists_run_idle_of_busy (n : Nat) (s : State) (hbusy : s.phase = .busy) (hn : s.latLeft = n) :
    ∃ k t, k ≤ n + 1 ∧ Sys2Proof.core.run k s = .next t ∧ t.phase = .idle := by
  induction n generalizing s with
  | zero =>
    obtain ⟨t, hstep⟩ := exists_step_next s
    obtain hidle | ⟨hlat0, -⟩ := step_of_busy hbusy hstep
    · exact ⟨1, t, Nat.le_refl 1, run_succ_of_step hstep 0, hidle⟩
    · exact absurd hn hlat0
  | succ n ih =>
    obtain ⟨t, hstep⟩ := exists_step_next s
    obtain hidle | ⟨-, hbusy', hlat⟩ := step_of_busy hbusy hstep
    · exact ⟨1, t, by omega, run_succ_of_step hstep 0, hidle⟩
    · obtain ⟨k, u, hk, hrun, hidle⟩ := ih t hbusy' (by omega)
      exact ⟨k + 1, u, by omega, (run_succ_of_step hstep k).trans hrun, hidle⟩

/-! ## The obligations -/

/-- Settles O9: each of the four kinds of step keeps the invariant. -/
theorem stepKeepsTheInvariant : Obligations.StepKeepsTheInvariant := by
  unfold Obligations.StepKeepsTheInvariant
  intro s t hinv h
  obtain ⟨i, -, rfl⟩ | ⟨-, rfl⟩ | ⟨-, u, re, rfl⟩ | ⟨w, rdata, lat, script, draws, hevent, -, rfl⟩ := step_event h
  · exact inv_complete hinv i
  · exact inv_failed hinv (by decide) (by decide) _
  · exact inv_resetCycle u re
  · exact hevent.inv hinv

/-- Settles O10: the default alphabet is legal, and the other clauses hold of the reset values as they stand. -/
theorem resetMeetsTheInvariant : Obligations.ResetMeetsTheInvariant := by
  unfold Obligations.ResetMeetsTheInvariant
  exact inv_reset

/-- Settles O5: a due command is the step's first branch. -/
theorem stepRunsTheDecodedCommand : Obligations.StepRunsTheDecodedCommand := by
  unfold Obligations.StepRunsTheDecodedCommand
  exact fun s i hbusy hlat hdec => step_of_decode_some ((coreReady_eq_true_iff s).2 ⟨hbusy, hlat⟩) hdec

/-- Settles O7: a completion and a host step both answer a next state. -/
theorem everyStepAnswersANextState : Obligations.EveryStepAnswersANextState := by
  unfold Obligations.EveryStepAnswersANextState
  exact exists_step_next

/-- Settles O8: each step in flight ends the command or takes one host cycle of its latency. -/
theorem commandInFlightEndsWithinItsLatency : Obligations.CommandInFlightEndsWithinItsLatency := by
  unfold Obligations.CommandInFlightEndsWithinItsLatency
  exact fun s hbusy => exists_run_idle_of_busy s.latLeft s hbusy rfl

/-- Settles O54: of the four kinds of step two can change KR or KEY_VALID, a completion of one of two commands and a
reset; and a register other than STATUS does not read KR. -/
theorem onlyKeyLoadAndResetWriteKr : Obligations.OnlyKeyLoadAndResetWriteKr := by
  unfold Obligations.OnlyKeyLoadAndResetWriteKr
  refine ⟨fun s t h hne => ?_, fun s k a ha => ?_⟩
  · obtain ⟨i, hnext, rfl⟩ | ⟨-, rfl⟩ | ⟨hreset, -⟩ | ⟨w, rdata, lat, script, draws, hevent, -, rfl⟩ := step_event h
    · obtain ⟨hkr, hkv⟩ | ⟨rfl, herr⟩ | rfl := complete_key_cases i s
      · exact absurd hne (by simp [hkr, hkv])
      · exact .inl ⟨hnext, herr⟩
      · exact .inr (.inl hnext)
    · exact absurd hne (by simp)
    · exact .inr (.inr hreset)
    · obtain ⟨hkr, hkv, -⟩ := hevent.keeps_keys
      exact absurd hne (by simp [State.withHostSide, hkr, hkv])
  · rw [readWord, readWord]
    cases hr : regAt a with
    | none => rfl
    | some r => exact readReg_kr s k (ha.imp_right fun hne hstatus => hne (addr_of_regAt (hstatus ▸ hr)).symm)

/-- Settles O55: of the four kinds of step two can change RK, a completion and a reset. -/
theorem onlySchedulesWriteRk : Obligations.OnlySchedulesWriteRk := by
  unfold Obligations.OnlySchedulesWriteRk
  intro s t h hne
  obtain ⟨i, hnext, rfl⟩ | ⟨-, rfl⟩ | ⟨hreset, u, re, rfl⟩ | ⟨w, rdata, lat, script, draws, hevent, -, rfl⟩ :=
    step_event h
  · obtain hsame | ⟨hderives, hrk⟩ | ⟨rfl, hrk⟩ := complete_rk_cases i s
    · exact absurd hsame hne
    · refine .inl ⟨?_, hrk⟩
      obtain rfl | rfl | rfl | rfl | rfl := hderives <;> simp only [hnext, true_or, or_true]
    · exact .inr ⟨.inl hnext, fun j => by rw [hrk]; exact reset_rk_getElem j⟩
  · exact absurd rfl hne
  · exact .inr ⟨.inr hreset, fun j => by rw [resetCycle_rk]; exact reset_rk_getElem j⟩
  · obtain ⟨-, -, hrk⟩ := hevent.keeps_keys
    exact absurd hrk hne

end Sys2Proof.Machine

/-! PROOF. What a read returns: the bits of STATUS, the write-set by address, and the host's steps (10_state.md R33,
20_memory.md R72, R83, 30_encoding.md R121). -/

namespace Sys2Proof.Machine

open Sys2Proof.Claims

/-! ## The bits of STATUS (R33) -/

/-- A field of a bus word placed at bit p has its bits from p on. -/
theorem setWidth_shiftLeft_getLsbD {n p : Nat} (x : BitVec n) (h : p + n ≤ 64) (i : Nat) :
    (x.setWidth 64 <<< p).getLsbD i = (decide (p ≤ i) && x.getLsbD (i - p)) := by
  rw [BitVec.getLsbD_shiftLeft, BitVec.getLsbD_setWidth, Bool.eq_iff_iff]
  simp only [Bool.and_eq_true, decide_eq_true_eq, Bool.not_eq_true', decide_eq_false_iff_not]
  constructor
  · rintro ⟨⟨-, hp⟩, -, hx⟩
    exact ⟨by omega, hx⟩
  · rintro ⟨hp, hx⟩
    have hlt := BitVec.lt_of_getLsbD hx
    exact ⟨⟨by omega, by omega⟩, by omega, hx⟩

theorem flagAt_getLsbD {p : Nat} (hp : p < 64) (b : Bool) (i : Nat) :
    (flagAt p b).getLsbD i = (decide (i = p) && b) := by
  rw [flagAt, setWidth_shiftLeft_getLsbD _ hp, BitVec.getLsbD_ofBool, ← Bool.and_assoc, ← Bool.decide_and]
  congr 2
  exact propext (by omega)

/-- STATUS bit by bit: each flag at its position, ERR from bit 8 on, and nothing else. -/
theorem statusWord_getLsbD (s : State) (i : Nat) :
    (statusWord s).getLsbD i =
      ((decide (i = 0) && s.isBusy) || (decide (i = 1) && s.doneBit) || (decide (i = 2) && s.keyValid) ||
       (decide (i = 3) && s.kr.variant.bit) || (decide (i = 4) && s.wk.variant.bit) ||
       (decide (i = 5) && s.alphaValid) || (decide (i = 6) && s.ovr) ||
       (decide (8 ≤ i) && s.errField.getLsbD (i - 8))) := by
  simp only [statusWord, BitVec.getLsbD_or,
    setWidth_shiftLeft_getLsbD s.errField (show 8 + 4 ≤ 64 by decide), flagAt_getLsbD (show 0 < 64 by decide),
    flagAt_getLsbD (show 1 < 64 by decide), flagAt_getLsbD (show 2 < 64 by decide),
    flagAt_getLsbD (show 3 < 64 by decide), flagAt_getLsbD (show 4 < 64 by decide),
    flagAt_getLsbD (show 5 < 64 by decide), flagAt_getLsbD (show 6 < 64 by decide)]

theorem readWord_status (s : State) : readWord s 0x001 = statusWord s := readWord_addr s .status

theorem isBusy_eq_true_iff (s : State) : s.isBusy = true ↔ s.phase = .busy := by
  simp [State.isBusy]

theorem doneBit_eq_true_iff (s : State) : s.doneBit = true ↔ s.phase = .idle ∧ s.done = true := by
  cases hp : s.phase <;> simp [State.doneBit, State.isBusy, hp]

theorem errField_eq_ite (s : State) : s.errField = if s.phase = .busy then 0 else s.err.code := by
  simp only [State.errField, isBusy_eq_true_iff]

theorem variant_bit_eq_true_iff (w : KeyReg) : w.variant.bit = true ↔ ∃ k, w = .v128 k := by
  cases w <;> simp [KeyReg.variant, Variant.bit]

/-- From bit 8 on STATUS is ERR alone. -/
theorem statusWord_getLsbD_of_ge (s : State) {i : Nat} (hi : 8 ≤ i) :
    (statusWord s).getLsbD i = s.errField.getLsbD (i - 8) := by
  have hne : ∀ p < 8, decide (i = p) = false := fun p hp => decide_eq_false (by omega)
  simp only [statusWord_getLsbD, hi, hne 0, hne 1, hne 2, hne 3, hne 4, hne 5, hne 6, Nat.reduceLT, decide_true,
    Bool.false_and, Bool.false_or, Bool.true_and]

/-- Bits 6:0 of STATUS are the flags, bit 7 is 0. -/
theorem statusWord_flags (s : State) :
    (statusWord s).getLsbD 0 = s.isBusy ∧ (statusWord s).getLsbD 1 = s.doneBit ∧
    (statusWord s).getLsbD 2 = s.keyValid ∧ (statusWord s).getLsbD 3 = s.kr.variant.bit ∧
    (statusWord s).getLsbD 4 = s.wk.variant.bit ∧ (statusWord s).getLsbD 5 = s.alphaValid ∧
    (statusWord s).getLsbD 6 = s.ovr ∧ (statusWord s).getLsbD 7 = false := by
  simp only [statusWord_getLsbD]
  simp

/-- Bits 11:8 of STATUS are ERR. -/
theorem statusWord_err (s : State) : (statusWord s).extractLsb' 8 4 = s.errField := by
  apply BitVec.eq_of_getLsbD_eq
  intro i hi
  rw [BitVec.getLsbD_extractLsb', statusWord_getLsbD_of_ge s (by omega), Nat.add_sub_cancel_left, decide_eq_true hi,
    Bool.true_and]

/-- Bits 63:12 of STATUS are 0. -/
theorem statusWord_top (s : State) : (statusWord s).extractLsb' 12 52 = 0 := by
  apply BitVec.eq_of_getLsbD_eq
  intro i hi
  rw [BitVec.getLsbD_extractLsb', statusWord_getLsbD_of_ge s (by omega), BitVec.getLsbD_of_ge _ _ (by omega),
    Bool.and_false]
  exact BitVec.getLsbD_zero.symm

/-! ## The write-sets by register and by address (R83) -/

/-- DOUT. -/
def Reg.isDout : Reg → Bool
  | .dout => true
  | .id | .status | .cmd | .errinfo | .keylen | .keyHi | .keyLo | .din | .alphaLen | .symLen | .wkHi | .wkLo | .rk _
  | .alpha _ | .sym _ => false

/-- WK_HI and WK_LO. -/
def Reg.isWk : Reg → Bool
  | .wkHi | .wkLo => true
  | .id | .status | .cmd | .errinfo | .keylen | .keyHi | .keyLo | .din | .dout | .alphaLen | .symLen | .rk _
  | .alpha _ | .sym _ => false

/-- RK[0..31]. -/
def Reg.isRk : Reg → Bool
  | .rk _ => true
  | .id | .status | .cmd | .errinfo | .keylen | .keyHi | .keyLo | .din | .dout | .alphaLen | .symLen | .wkHi | .wkLo
  | .alpha _ | .sym _ => false

/-- SYM[0..63] and SYM_LEN. -/
def Reg.isString : Reg → Bool
  | .sym _ | .symLen => true
  | .id | .status | .cmd | .errinfo | .keylen | .keyHi | .keyLo | .din | .dout | .alphaLen | .wkHi | .wkLo | .rk _
  | .alpha _ => false

/-- ID, STATUS and CMD, which SRST leaves (R300). -/
def Reg.isKeptBySrst : Reg → Bool
  | .id | .status | .cmd => true
  | .errinfo | .keylen | .keyHi | .keyLo | .din | .dout | .alphaLen | .symLen | .wkHi | .wkLo | .rk _ | .alpha _
  | .sym _ => false

/-- The write-set of a command by the kinds of registers its rule names (`inWriteSet_eq_inWriteKinds`). -/
def inWriteKinds (i : Instr) (r : Reg) : Bool :=
  match i with
  | .nop | .keyLoad | .alphaCommit | .statusClr => false
  | .krClone | .krRotate | .krSubst | .krInject _ | .krUpdate _ => r.isWk
  | .ksRun => r.isRk || r.isWk
  | .encrypt | .decrypt | .unwrap => r.isDout || (r.isRk || r.isWk)
  | .wrap => r.isDout || (r.isRk || (r.isWk || r.isString))
  | .encode => r.isString
  | .decode | .krExtract | .addkey _ | .slayer | .slayerInv | .player | .playerInv | .rndFwd _ | .rndInv _ => r.isDout
  | .srst => !r.isKeptBySrst

theorem inWriteSet_eq_inWriteKinds (i : Instr) (r : Reg) : inWriteSet i r = inWriteKinds i r := by
  cases i <;> cases r <;> rfl

theorem Reg.addr_rk_toNat (i : Fin 32) : (Reg.rk i).addr.toNat = 0x020 + i.val := by simp only [addr]; bv_omega

theorem Reg.addr_alpha_toNat (i : Fin 256) : (Reg.alpha i).addr.toNat = 0x100 + i.val := by simp only [addr]; bv_omega

theorem Reg.addr_sym_toNat (p : Fin 64) : (Reg.sym p).addr.toNat = 0x200 + p.val := by simp only [addr]; bv_omega

/-- The addresses of each kind of register (R32). -/
theorem Reg.addr_kinds (r : Reg) :
    (r.addr.toNat = 0x008 ↔ r.isDout = true) ∧ (wkAddr r.addr.toNat ↔ r.isWk = true) ∧
    (rkAddr r.addr.toNat ↔ r.isRk = true) ∧ (symAddr r.addr.toNat ↔ r.isString = true) ∧
    (r.addr.toNat = 0x000 ∨ r.addr.toNat = 0x001 ∨ r.addr.toNat = 0x002 ↔ r.isKeptBySrst = true) := by
  unfold wkAddr rkAddr symAddr isDout isWk isRk isString isKeptBySrst
  cases r with
  | rk i => simp only [addr_rk_toNat, Bool.false_eq_true, iff_false, iff_true]; omega
  | alpha i => simp only [addr_alpha_toNat, Bool.false_eq_true, iff_false]; omega
  | sym p => simp only [addr_sym_toNat, Bool.false_eq_true, iff_false, iff_true]; omega
  | _ => decide

/-- The claim's write-set, by address, is the model's, by register. -/
theorem writeSet_addr_iff (i : Instr) (r : Reg) : writeSet i r.addr ↔ inWriteSet i r = true := by
  obtain ⟨hdout, hwk, hrk, hstring, hkept⟩ := r.addr_kinds
  rw [inWriteSet_eq_inWriteKinds]
  cases i <;> simp only [writeSet, inWriteKinds, hdout, hwk, hrk, hstring, Bool.or_eq_true, Bool.false_eq_true,
    Bool.not_eq_true', Bool.eq_false_iff, ne_eq, ← hkept, r.not_unmapped_addr, not_false_eq_true, and_true, not_or]

theorem exists_reg_of_not_unmapped {a : Addr} (h : ¬ unmapped a) : ∃ r : Reg, r.addr = a := by
  have hlow : ∀ n < 0x00E, n ≠ 0x00B → (regAt (BitVec.ofNat 12 n)).isSome := by decide
  obtain ⟨hlt, hne⟩ | ⟨hlo, hhi⟩ | ⟨hlo, hhi⟩ | ⟨hlo, hhi⟩ : (a.toNat < 0x00E ∧ a.toNat ≠ 0x00B) ∨
      (0x020 ≤ a.toNat ∧ a.toNat < 0x040) ∨ (0x100 ≤ a.toNat ∧ a.toNat < 0x200) ∨
      (0x200 ≤ a.toNat ∧ a.toNat < 0x240) := by
    unfold unmapped at h
    omega
  · obtain ⟨r, hr⟩ := Option.isSome_iff_exists.1 (hlow a.toNat hlt hne)
    exact ⟨r, (addr_of_regAt hr).trans (by simp)⟩
  · exact ⟨.rk ⟨a.toNat - 0x020, by omega⟩, by simp only [Reg.addr]; bv_omega⟩
  · exact ⟨.alpha ⟨a.toNat - 0x100, by omega⟩, by simp only [Reg.addr]; bv_omega⟩
  · exact ⟨.sym ⟨a.toNat - 0x200, by omega⟩, by simp only [Reg.addr]; bv_omega⟩

theorem not_unmapped_of_writeSet {i : Instr} {a : Addr} (h : writeSet i a) : ¬ unmapped a := by
  cases i <;> simp only [writeSet, wkAddr, rkAddr, symAddr, unmapped] at h ⊢ <;> omega

/-- An address is in a command's write-set when the register there is. -/
theorem writeSet_iff (i : Instr) (a : Addr) : writeSet i a ↔ ∃ r, regAt a = some r ∧ inWriteSet i r = true := by
  constructor
  · intro h
    obtain ⟨r, rfl⟩ := exists_reg_of_not_unmapped (not_unmapped_of_writeSet h)
    exact ⟨r, regAt_addr r, (writeSet_addr_iff i r).1 h⟩
  · rintro ⟨r, hr, hw⟩
    exact addr_of_regAt hr ▸ (writeSet_addr_iff i r).2 hw

/-! ## What a read leaves unspecified while BUSY = 1 (R83) -/

/-- A register other than STATUS has all its bits in a command's write-set or none. -/
theorem writeBits_of_ne_status {r : Reg} (h : r ≠ .status) (i : Instr) :
    writeBits i r = if inWriteSet i r then BitVec.allOnes 64 else 0 := by
  cases r with
  | status => exact absurd rfl h
  | _ => rfl

theorem inWriteSet_status (i : Instr) : inWriteSet i .status = false := by
  cases i <;> rfl

theorem unspecifiedBits_of_writeSet {s : State} (hbusy : s.phase = .busy) {i : Instr}
    (hdec : decode s.curCmd = some i) {a : Addr} (ha : writeSet i a) : unspecifiedBits s a = BitVec.allOnes 64 := by
  obtain ⟨r, hr, hw⟩ := (writeSet_iff i a).1 ha
  have hne : r ≠ .status := by
    rintro rfl
    exact absurd (hw.symm.trans (inWriteSet_status i)) (by decide)
  rw [unspecifiedBits, if_pos ((isBusy_eq_true_iff s).2 hbusy), hr, hdec]
  exact (writeBits_of_ne_status hne i).trans (if_pos hw)

theorem unspecifiedBits_of_not_writeSet {s : State} {a : Addr} (hne : a ≠ 0x001)
    (ha : ∀ i, decode s.curCmd = some i → ¬ writeSet i a) : unspecifiedBits s a = 0 := by
  rw [unspecifiedBits]
  split
  · split
    · rename_i r i hr hdec
      have hr_ne : r ≠ .status := by
        rintro rfl
        exact hne (addr_of_regAt hr).symm
      rw [writeBits_of_ne_status hr_ne, if_neg fun hw => ha i hdec ((writeSet_iff i a).2 ⟨r, hr, hw⟩)]
    · rfl
  · rfl

/-- A read of which every bit is unspecified changes no register and returns a draw. -/
theorem busCycle_rdCycle_of_unspecified {s : State} {a : Addr} (h : unspecifiedBits s a = BitVec.allOnes 64) :
    busCycle (rdCycle a) s = afterDraw s :=
  readCycle_of_unspecified (s := tick s) h

theorem readWord_errinfo_of_busy {s : State} (hbusy : s.phase = .busy) : readWord s 0x003 = 0 :=
  (readWord_addr s .errinfo).trans (if_pos ((isBusy_eq_true_iff s).2 hbusy))

/-! ## A read of STATUS (R83) -/

/-- A read of STATUS: its unspecified bits from a draw, which is made if there is one, the others as they stand. -/
theorem busCycle_rdCycle_status (s : State) : ∃ w n,
    busCycle (rdCycle 0x001) s = { afterCycle s (some w) with draws := n } ∧
    n = (if unspecifiedBits s 0x001 = 0 then s.draws else s.draws + 1) ∧
    ∀ i < 64, w.getLsbD i =
      if (unspecifiedBits s 0x001).getLsbD i then (Config.freeWord s.draws).getLsbD i
      else (statusWord s).getLsbD i := by
  by_cases h : unspecifiedBits s 0x001 = 0
  · refine ⟨statusWord s, s.draws, ?_, (if_pos h).symm, fun i _ => by rw [h]; simp⟩
    rw [busCycle_rdCycle_of_specified h, readWord_status]
    rfl
  · refine ⟨_, s.draws + 1, ?_, (if_neg h).symm, fun i hi => getLsbD_mixed _ _ _ hi⟩
    rw [← readWord_status, ← readWord_tick]
    exact if_neg h

theorem statusWriteBits_getLsbD (i : Instr) (j : Nat) :
    (statusWriteBits i).getLsbD j = true ↔
      (j = 3 ∧ i = .keyLoad) ∨ (j = 4 ∧ i ∈ [Instr.krClone, .ksRun, .encrypt, .decrypt, .wrap, .unwrap]) := by
  cases i <;> simp [statusWriteBits, flagAt_getLsbD]

/-- KEY_VAR and WK_VAR are unspecified under the commands that write them, and no other bit of STATUS ever is. -/
theorem unspecifiedBits_status_getLsbD {s : State} (hbusy : s.phase = .busy) (j : Nat) :
    (unspecifiedBits s 0x001).getLsbD j = true ↔ (j = 3 ∧ writesKeyVar s) ∨ (j = 4 ∧ writesWkVar s) := by
  have hr : regAt 0x001 = some .status := regAt_addr .status
  rw [unspecifiedBits, if_pos ((isBusy_eq_true_iff s).2 hbusy), hr, writesKeyVar, writesWkVar]
  cases decode s.curCmd with
  | none => simp
  | some i => simpa [writeBits] using statusWriteBits_getLsbD i j

theorem extractLsb'_congr {x y : Word} {p n : Nat}
    (h : ∀ j, p ≤ j → j < p + n → x.getLsbD j = y.getLsbD j) : x.extractLsb' p n = y.extractLsb' p n := by
  apply BitVec.eq_of_getLsbD_eq
  intro i hi
  rw [BitVec.getLsbD_extractLsb', BitVec.getLsbD_extractLsb', h (p + i) (by omega) (by omega)]

/-- While BUSY = 1 the two low bits of STATUS are BUSY = 1 and DONE = 0. -/
theorem statusWord_low_of_busy {s : State} (hbusy : s.phase = .busy) : (statusWord s).extractLsb' 0 2 = 1 := by
  obtain ⟨h0, h1, -⟩ := statusWord_flags s
  rw [(isBusy_eq_true_iff s).2 hbusy] at h0
  rw [State.doneBit, (isBusy_eq_true_iff s).2 hbusy, Bool.not_true, Bool.and_false] at h1
  apply BitVec.eq_of_getLsbD_eq
  intro i hi
  obtain rfl | rfl : i = 0 ∨ i = 1 := by omega
  · rw [BitVec.getLsbD_extractLsb', h0]; rfl
  · rw [BitVec.getLsbD_extractLsb', h1]; rfl

/-- `wait` goes on when the STATUS it reads has BUSY = 0, whatever bits of it are unspecified (R121). -/
theorem readIdle_busCycle_rdCycle_status (s : State) :
    readIdle (busCycle (rdCycle 0x001) s) = !s.isBusy := by
  obtain ⟨w, n, hread, -, hw⟩ := busCycle_rdCycle_status s
  have hmask : (unspecifiedBits s 0x001).getLsbD 0 = false := by
    cases hp : s.phase with
    | idle => rw [unspecifiedBits_of_idle hp]; rfl
    | busy => exact Bool.eq_false_iff.2 fun h => by simpa using (unspecifiedBits_status_getLsbD hp 0).1 h
  obtain ⟨h0, -⟩ := statusWord_flags s
  have hbit : w.getLsbD 0 = s.isBusy := by rw [hw 0 (by decide), hmask, if_neg Bool.false_ne_true, h0]
  rw [hread, readIdle]
  simp only [afterCycle, hbit]

/-! ## The obligations -/

/-- Settles O21: STATUS bit by bit, each bit in the terms of the fields it shows. -/
theorem statusBits : Obligations.StatusBits := by
  unfold Obligations.StatusBits
  intro s
  obtain ⟨h0, h1, h2, h3, h4, h5, h6, h7⟩ := statusWord_flags s
  simp only [readWord_status, h0, h1, h2, h3, h4, h5, h6, h7, statusWord_top, statusWord_err, errField_eq_ite,
    isBusy_eq_true_iff, doneBit_eq_true_iff, variant_bit_eq_true_iff, and_self]


/-- Settles O18: the write-set by address is the model's by register, and of STATUS the two variant bits are a draw
under the commands that write them, the others the bits of the stored word at BUSY = 1. -/
theorem readsWhileBusy : Obligations.ReadsWhileBusy := by
  unfold Obligations.ReadsWhileBusy
  refine ⟨fun s a hbusy => ⟨?_, fun ha hne => ⟨?_, ?_⟩⟩, fun s hbusy => ?_⟩
  · rintro ⟨i, hdec, ha⟩
    exact busCycle_rdCycle_of_unspecified (unspecifiedBits_of_writeSet hbusy hdec ha)
  · exact busCycle_rdCycle_of_specified (unspecifiedBits_of_not_writeSet hne ha)
  · rintro rfl
    exact readWord_errinfo_of_busy hbusy
  · obtain ⟨w, n, hread, hn, hw⟩ := busCycle_rdCycle_status s
    have hmask := unspecifiedBits_status_getLsbD hbusy
    obtain ⟨h0, h1, h2, h3, h4, h5, h6, h7⟩ := statusWord_flags s
    have hstored {j : Nat} (hj : j < 64) (hs : ¬ ((j = 3 ∧ writesKeyVar s) ∨ (j = 4 ∧ writesWkVar s))) :
        w.getLsbD j = (statusWord s).getLsbD j := by
      rw [hw j hj, if_neg (mt (hmask j).1 hs)]
    have hdrawn {j : Nat} (hj : j < 64) (hs : (j = 3 ∧ writesKeyVar s) ∨ (j = 4 ∧ writesWkVar s)) :
        n = s.draws + 1 ∧ w.getLsbD j = (Config.freeWord s.draws).getLsbD j := by
      have hset := (hmask j).2 hs
      refine ⟨hn.trans (if_neg fun h => ?_), (hw j hj).trans (if_pos hset)⟩
      rw [h] at hset
      simp at hset
    refine ⟨w, n, hread, hn ▸ ite_eq_or_eq _ _ _, ?_, ?_, ?_, ?_, ?_, ?_, ?_,
      fun hkey => hdrawn (by decide) (.inl ⟨rfl, hkey⟩), fun hkey => ?_,
      fun hwk => hdrawn (by decide) (.inr ⟨rfl, hwk⟩), fun hwk => ?_⟩
    · exact (extractLsb'_congr fun j _ hj => hstored (by omega) (by omega)).trans (statusWord_low_of_busy hbusy)
    · rw [extractLsb'_congr fun j hj _ => hstored (by omega) (by omega), statusWord_err, errField_eq_ite, if_pos hbusy]
    · rw [hstored (by decide) (by simp), h7]
    · exact (extractLsb'_congr fun j hj _ => hstored (by omega) (by omega)).trans (statusWord_top s)
    · rw [hstored (by decide) (by simp), h2]
    · rw [hstored (by decide) (by simp), h5]
    · rw [hstored (by decide) (by simp), h6]
    · rw [hstored (by decide) (by simpa using hkey), h3, variant_bit_eq_true_iff]
    · rw [hstored (by decide) (by simpa using hwk), h4, variant_bit_eq_true_iff]

theorem hostStep_of_nil {s : State} (hs : s.script = []) : hostStep s = afterCycle s none := by
  rw [hostStep, hs]
  rfl

theorem hostStep_of_cycle {s : State} {c : BusCycle} {rest : List HostInstr} (hs : s.script = .cycle c :: rest) :
    hostStep s = busCycle c { s with script := rest } := by
  rw [hostStep, hs]

/-- The read of STATUS keeps the program, and `wait` moves on when its bit 0 is 0 (R121). -/
theorem hostStep_of_wait {s : State} {rest : List HostInstr} (hs : s.script = .wait :: rest) :
    hostStep s = { busCycle (rdCycle 0x001) s with script := if s.phase = .busy then s.script else rest } := by
  have hstep : hostStep s = if readIdle (busCycle (rdCycle 0x001) s) then
      { busCycle (rdCycle 0x001) s with script := rest } else busCycle (rdCycle 0x001) s := by
    rw [hostStep, hs]
    rfl
  have hscript : (busCycle (rdCycle 0x001) s).script = s.script := by
    obtain ⟨w, n, hread, -⟩ := busCycle_rdCycle_status s
    rw [hread, afterCycle]
  rw [hstep, readIdle_busCycle_rdCycle_status, State.isBusy]
  cases hp : s.phase with
  | idle => rfl
  | busy =>
    simp only [← hscript]
    rfl

/-- Settles O6: where the core is not due, the step is the host's; its three forms are the next line's, the idle cycle
and one read of STATUS, whose bit 0 is BUSY. -/
theorem otherStepsAreHostSteps : Obligations.OtherStepsAreHostSteps := by
  unfold Obligations.OtherStepsAreHostSteps
  intro s hs
  have hcore : coreReady s = false := by
    rw [Bool.eq_false_iff, Ne, coreReady_eq_true_iff]
    rintro ⟨hbusy, hlat⟩
    simp [hbusy, hlat] at hs
  rw [step_of_not_coreReady hcore]
  exact ⟨fun c rest h => congrArg _ (hostStep_of_cycle h), fun h => congrArg _ (hostStep_of_nil h),
    fun rest h => congrArg _ (hostStep_of_wait h)⟩

/-- Settles O19: the cycle's ports decide which of the five kinds it is, and no bit is unspecified while idle. -/
theorem readsWhileIdleAndEmptyCycles : Obligations.ReadsWhileIdleAndEmptyCycles := by
  unfold Obligations.ReadsWhileIdleAndEmptyCycles
  intro s c hrst
  refine ⟨fun hidle hwe hre => ?_, fun hwe hre => ?_, fun hwe hre => ?_⟩
  · have hbus : busCycle c s = readCycle (tick s) c.addr := by simp [busCycle, hrst, hwe, hre]
    rw [hbus, readCycle_of_specified (unspecifiedBits_of_idle (s := tick s) hidle c.addr), readWord_tick]
    rfl
  · have hbus : busCycle c s = drawRead (tick s) := by simp [busCycle, hrst, hwe, hre]
    exact hbus
  · have hbus : busCycle c s = { tick s with busRdata := none } := by simp [busCycle, hrst, hwe, hre]
    exact hbus

theorem Reg.addr_rk (i : Fin 32) : (Reg.rk i).addr = BitVec.ofNat 12 (0x020 + i.val) :=
  (BitVec.ofNat_add ..).symm

/-- Settles O20: each address is the address of the register it reads as. -/
theorem registerMapReads : Obligations.RegisterMapReads := by
  unfold Obligations.RegisterMapReads
  intro s
  have hread (r : Reg) : readWord s r.addr = readReg s r := readWord_addr s r
  have hlo : readWord s 0x00D = s.wk.loWord := hread .wkLo
  refine ⟨hread .id, hread .cmd, fun hidle => (hread .errinfo).trans (if_neg (by simp [State.isBusy, hidle])),
    hread .keylen, hread .keyHi, hread .keyLo, hread .din, hread .dout, hread .alphaLen, hread .symLen,
    fun k hk => ⟨?_, ?_, ?_⟩, fun k hk => ⟨?_, ?_⟩, fun i => Reg.addr_rk i ▸ hread (.rk i),
    fun i => Reg.addr_alpha i ▸ hread (.alpha i), fun p => Reg.addr_sym p ▸ hread (.sym p)⟩
  · exact (hread .wkHi).trans (by rw [readReg, hk, KeyReg.hiWord])
  · rw [hlo, hk, KeyReg.loWord]
    exact BitVec.extractLsb'_append_eq_left
  · rw [hlo, hk, KeyReg.loWord]
    exact BitVec.extractLsb'_append_eq_right
  · exact (hread .wkHi).trans (by rw [readReg, hk, KeyReg.hiWord])
  · rw [hlo, hk, KeyReg.loWord]

end Sys2Proof.Machine

/-! PROOF. The inverse and composition laws of the key register, the layers, the rounds and the cipher
(41_key_register.md R181, R184, 40_tables.md R149, 42_round_function.md R213, 43_block_cipher.md R243, R244). -/

namespace Sys2Proof.Machine

open Sys2Proof.Claims

/-! ## The rotation's period (R181) -/

/-- After m rotations by n, bit i stands at i + m n modulo the width. -/
theorem rotl_iterate_getLsbD {w : Nat} (x : BitVec w) {n i : Nat} (hn : n < w) (hi : i < w) (m : Nat) :
    ((rotl · n)^[m] x).getLsbD ((i + m * n) % w) = x.getLsbD i := by
  induction m with
  | zero => rw [Nat.zero_mul, Nat.add_zero, Nat.mod_eq_of_lt hi]; rfl
  | succ m ih =>
    have hpos : (i + (m + 1) * n) % w = ((i + m * n) % w + n) % w := by
      rw [Nat.mod_add_mod, Nat.add_mul, Nat.one_mul, Nat.add_assoc]
    rw [Function.iterate_succ_apply', hpos, rotl_getLsbD _ hn (Nat.mod_lt _ (by omega)), ih]

/-- As many rotations as the register has bits move every bit to its place. -/
theorem rotl_iterate_width {w : Nat} (x : BitVec w) {n : Nat} (hn : n < w) : (rotl · n)^[w] x = x := by
  apply BitVec.eq_of_getLsbD_eq
  intro i hi
  have h := rotl_iterate_getLsbD x hn hi w
  rwa [Nat.add_mul_mod_self_left, Nat.mod_eq_of_lt hi] at h

/-- Settles O25: `krRot` is the rotation by 61 of either variant's bits, of which `rotl_iterate_width` gives the
period. -/
theorem rotationPeriod : Obligations.RotationPeriod := by
  unfold Obligations.RotationPeriod
  have h80 : Function.Semiconj KeyReg.v80 (rotl · 61) krRot := fun _ => rfl
  have h128 : Function.Semiconj KeyReg.v128 (rotl · 61) krRot := fun _ => rfl
  constructor
  · intro k
    rw [← (h80.iterate_right 80).eq, rotl_iterate_width k (by decide)]
  · intro k
    rw [← (h128.iterate_right 128).eq, rotl_iterate_width k (by decide)]

/-! ## The walk in steps (R184, R190) -/

theorem exec_krUpdate (n : BitVec 5) (s : State) :
    exec (.krUpdate n) s = .next (succeeded { s with wk := krUpd s.wk n }) :=
  exec_eq_complete (.krUpdate n) s

/-- The state of a stepwise walk after KR_CLONE and r updates. -/
def walkState (s : State) (r : Nat) : State := succeeded { s with wk := krWalk s.kr r }

theorem exec_krUpdate_walkState (s : State) (r : Nat) :
    exec (.krUpdate (BitVec.ofNat 5 (r + 1))) (walkState s r) = .next (walkState s (r + 1)) :=
  exec_krUpdate _ _

theorem schedule_rk_getElem (w : KeyReg) (r : Fin 32) : (schedule w).rk[r] = krTop (krWalk w r.val) := by
  simp [schedule]

theorem schedule_last (w : KeyReg) : (schedule w).last = krWalk w 31 := by
  rw [schedule, numRounds]

/-- Settles O31: `krWalk` is the walk of both, in WK after each update and under the schedule of KS_RUN. -/
theorem stepwiseWalkIsKsRun : Obligations.StepwiseWalkIsKsRun := by
  unfold Obligations.StepwiseWalkIsKsRun
  intro s hvalid
  refine ⟨walkState s, _, exec_krClone_of_valid hvalid, fun r _ => exec_krUpdate_walkState s r,
    exec_ksRun_of_valid hvalid, ?_, fun r => ?_⟩
  · rw [succeeded_wk, schedule_last, walkState, succeeded_wk]
  · rw [exec_krExtract, succeeded_rk, schedule_rk_getElem, walkState, succeeded_wk]

/-- Settles O28: each of the three writes its function of the WK before it, and `krUpd` is their composition (R174). -/
theorem krUpdateIsRotateSubstInject : Obligations.KrUpdateIsRotateSubstInject := by
  unfold Obligations.KrUpdateIsRotateSubstInject
  exact fun s n => ⟨_, _, _, exec_krRotate s, exec_krSubst _, exec_krInject n _, exec_krUpdate n s, rfl⟩

/-! ## The layers and the rounds (R149, R213) -/

/-- Settles O34: the bits of the permutation layer, as `player_pTable` and `player_pInvTable` give them. -/
theorem playerMovesEachBit : Obligations.PlayerMovesEachBit := by
  unfold Obligations.PlayerMovesEachBit
  exact fun s => ⟨⟨_, exec_player s, fun i => player_pTable s.din i.isLt⟩,
    ⟨_, exec_playerInv s, fun j => player_pInvTable s.din j.isLt⟩⟩

/-- Settles O36: each layer function undoes the other on the block that was moved to DIN. -/
theorem layerCommandsInvertEachOther : Obligations.LayerCommandsInvertEachOther := by
  unfold Obligations.LayerCommandsInvertEachOther
  intro s
  refine ⟨_, _, _, _, exec_slayer s, ?_, exec_slayerInv s, ?_, exec_player s, ?_, exec_playerInv s, ?_⟩
  · rw [exec_slayerInv, withDin_din, slayer_slayer _ _ _ sboxInv_sbox]
  · rw [exec_slayer, withDin_din, slayer_slayer _ _ _ sbox_sboxInv]
  · rw [exec_playerInv, withDin_din, playerInv_player]
  · rw [exec_player, withDin_din, player_playerInv]

/-- Settles O37: both rounds use the same round key, which the move to DIN leaves, and `roundInv` undoes `roundFwd`. -/
theorem rndInvUndoesRndFwd : Obligations.RndInvUndoesRndFwd := by
  unfold Obligations.RndInvUndoesRndFwd
  intro s n
  refine ⟨_, exec_rndFwd n s, ?_⟩
  rw [exec_rndInv, withDin_din, roundKey_withDin, roundInv_roundFwd]

/-! ## The cipher (R243, R244) -/

/-- ENCRYPT's DOUT is a function of KR and DIN. -/
theorem exists_exec_encrypt {s : State} (h : s.keyValid = true) : ∃ t, exec .encrypt s = .next t ∧
    t.dout = encryptWith (schedule s.kr).rk s.din ∧ t.kr = s.kr ∧ t.keyValid = true :=
  ⟨_, exec_encrypt_of_valid h, by rw [succeeded_dout, withDout_dout], by rw [succeeded_kr, withDout_kr],
    by rwa [succeeded_keyValid, withDout_keyValid]⟩

/-- DECRYPT's DOUT is a function of KR and DIN. -/
theorem exists_exec_decrypt {s : State} (h : s.keyValid = true) : ∃ t, exec .decrypt s = .next t ∧
    t.dout = decryptWith (schedule s.kr).rk s.din ∧ t.kr = s.kr ∧ t.keyValid = true :=
  ⟨_, exec_decrypt_of_valid h, by rw [succeeded_dout, withDout_dout], by rw [succeeded_kr, withDout_kr],
    by rwa [succeeded_keyValid, withDout_keyValid]⟩

/-- Settles O40: KR stays, so both commands use the round keys of one schedule, with which each undoes the other. -/
theorem decryptInvertsEncrypt : Obligations.DecryptInvertsEncrypt := by
  unfold Obligations.DecryptInvertsEncrypt
  intro s hvalid
  constructor
  · obtain ⟨t, ht, hdout, hkr, hkv⟩ := exists_exec_encrypt hvalid
    obtain ⟨u, hu, hres, -⟩ := exists_exec_decrypt (s := withDin t t.dout) hkv
    refine ⟨t, u, ht, hu, ?_⟩
    rw [hres, withDin_din, withDin_kr, hkr, hdout, decryptWith_encryptWith]
  · obtain ⟨t, ht, hdout, hkr, hkv⟩ := exists_exec_decrypt hvalid
    obtain ⟨u, hu, hres, -⟩ := exists_exec_encrypt (s := withDin t t.dout) hkv
    refine ⟨t, u, ht, hu, ?_⟩
    rw [hres, withDin_din, withDin_kr, hkr, hdout, encryptWith_decryptWith]

/-- Settles O41: the result is `encryptWith` or `decryptWith` of KR's schedule and DIN, on which the states agree. -/
theorem cipherDependsOnBlockAndKeyOnly : Obligations.CipherDependsOnBlockAndKeyOnly := by
  unfold Obligations.CipherDependsOnBlockAndKeyOnly
  intro s t hs ht hkr hdin
  obtain ⟨s1, hs1, hsdout1, -⟩ := exists_exec_encrypt hs
  obtain ⟨t1, ht1, htdout1, -⟩ := exists_exec_encrypt ht
  obtain ⟨s2, hs2, hsdout2, -⟩ := exists_exec_decrypt hs
  obtain ⟨t2, ht2, htdout2, -⟩ := exists_exec_decrypt ht
  refine ⟨s1, t1, s2, t2, hs1, ht1, ?_, hs2, ht2, ?_⟩
  · rw [hsdout1, htdout1, hkr, hdin]
  · rw [hsdout2, htdout2, hkr, hdin]

end Sys2Proof.Machine

/-! PROOF. The round trips of the codec and of the facade, and permuted alphabets (44_codec.md R263, R273,
45_facade_control.md R292). -/

namespace Sys2Proof.Machine

open Sys2Proof.Claims

/-! ## Strings and alphabets -/

/-- Over an alphabet without repeats different values have different strings: the positional sum gives each back
(R273). -/
theorem encodeString_injective {alphabet : List Symbol} (hn : alphabet.Nodup) (hb : 2 ≤ alphabet.length) :
    Function.Injective (encodeString alphabet) := fun m n h => by
  rw [← positionalSum_encodeString hn hb m, h, positionalSum_encodeString hn hb n]

theorem encryptWith_injective (rk : Vector Word 32) : Function.Injective (encryptWith rk) := fun x y h => by
  rw [← decryptWith_encryptWith rk x, h, decryptWith_encryptWith]

theorem alphabet_length_of_legal {s : State} (h : LegalAlphabet s) : 2 ≤ s.alphabet.length := by
  obtain ⟨h2, h256, -⟩ := h
  rwa [s.alphabet_length h256]

theorem alphabet_nodup_of_legal {s : State} (h : LegalAlphabet s) : s.alphabet.Nodup := by
  obtain ⟨-, -, hn⟩ := (legalAlphabet_iff s).1 h
  exact hn

/-- The string in the buffer after a string is written (R267). -/
theorem putString_string (s : State) {str : List Symbol} (h : str.length ≤ 64) : (putString s str).string = str :=
  putString_take s h

theorem putString_symLen_toNat (s : State) {str : List Symbol} (h : str.length ≤ 64) :
    (putString s str).symLen.toNat = str.length := by
  rw [putString_symLen, BitVec.toNat_ofNat, Nat.mod_eq_of_lt (by omega)]

/-- R273: what is written as the string of n decodes to n. -/
theorem decodeString_putString {s : State} (hlegal : LegalAlphabet s) (n : Word) :
    decodeString s.alphabet (putString s (encodeString s.alphabet n)).symLen
      (putString s (encodeString s.alphabet n)).sym = .value n := by
  obtain ⟨hpos, hle⟩ := encodeString_length s.alphabet n
  have hstring := putString_string s hle
  have hlen := putString_symLen_toNat s hle
  have hmem := encodeString_mem (alphabet_length_of_legal hlegal) n
  have hvalue := decodeString_of_valid (s := putString s (encodeString s.alphabet n)) (by omega) (by omega)
    (hstring.symm ▸ hmem)
  rw [hstring] at hvalue
  exact hvalue.trans (congrArg Decoded.value
    (positionalSum_encodeString (alphabet_nodup_of_legal hlegal) (alphabet_length_of_legal hlegal) n))

/-- Equal lengths and equal symbols below the length make equal strings. -/
theorem State.string_congr {t u : State} (hlen : t.symLen = u.symLen)
    (hsym : ∀ p : Fin 64, p.val < t.symLen.toNat → t.sym[p] = u.sym[p]) : t.string = u.string := by
  refine List.ext_getElem (by simp [State.string, hlen]) fun p hp _ => ?_
  have hp' : p < t.symLen.toNat ∧ p < 64 := by simpa [State.string] using hp
  simpa [State.string] using hsym ⟨p, hp'.2⟩ hp'.1

theorem putSchedule_self {s : State} {sch : Schedule} (hrk : s.rk = sch.rk) (hwk : s.wk = sch.last) :
    putSchedule s sch = s := by
  rw [putSchedule, ← hrk, ← hwk]

/-! ## DECODE after ENCODE (R273) -/

/-- Settles O45: ENCODE leaves the alphabet, over which its string decodes to DIN. -/
theorem decodeInvertsEncode : Obligations.DecodeInvertsEncode := by
  unfold Obligations.DecodeInvertsEncode
  intro s hvalid hlegal
  exact ⟨_, _, exec_encode_of_valid hvalid,
    exec_decode_of_value (s := succeeded (putString s _)) hvalid (decodeString_putString hlegal s.din), rfl⟩

/-! ## WRAP and UNWRAP (R292) -/

/-- The writes of WRAP with a key and an alphabet (R291). -/
def wrapped (s : State) : State :=
  putString (putDout (putSchedule s (schedule s.kr)) (encryptWith (schedule s.kr).rk s.din))
    (encodeString s.alphabet (encryptWith (schedule s.kr).rk s.din))

theorem exec_wrap_eq_wrapped {s : State} (hkey : s.keyValid = true) (halpha : s.alphaValid = true) :
    exec .wrap s = .next (succeeded (wrapped s)) :=
  exec_wrap_of_valid hkey halpha

theorem wrapped_kr (s : State) : (wrapped s).kr = s.kr := by
  rw [wrapped, putString_kr, putDout_kr, putSchedule_kr]

theorem wrapped_rk (s : State) : (wrapped s).rk = (schedule s.kr).rk := by
  rw [wrapped, putString_rk, putDout_rk, putSchedule_rk]

theorem wrapped_wk (s : State) : (wrapped s).wk = (schedule s.kr).last := by
  rw [wrapped, putString_wk, putDout_wk, putSchedule_wk]

theorem succeeded_alphabet (s : State) : (succeeded s).alphabet = s.alphabet := rfl

theorem wrapped_alphabet (s : State) : (wrapped s).alphabet = s.alphabet := by
  rw [State.alphabet, wrapped, putString_alpha, putString_alphaLen, putDout_alpha, putDout_alphaLen,
    putSchedule_alpha, putSchedule_alphaLen, State.alphabet]

theorem wrapped_string (s : State) :
    (wrapped s).string = encodeString s.alphabet (encryptWith (schedule s.kr).rk s.din) :=
  putString_string _ (encodeString_length _ _).2

theorem decodeString_wrapped {s : State} (hlegal : LegalAlphabet s) :
    decodeString s.alphabet (wrapped s).symLen (wrapped s).sym =
      .value (encryptWith (schedule s.kr).rk s.din) :=
  decodeString_putString (s := putDout (putSchedule s _) _) hlegal _

/-- Where the schedule of KR already stands in RK and WK, UNWRAP writes DOUT alone. -/
theorem exec_unwrap_of_scheduled {s : State} (hkey : s.keyValid = true) (halpha : s.alphaValid = true) {c : Word}
    (hd : decodeString s.alphabet s.symLen s.sym = .value c) (hrk : s.rk = (schedule s.kr).rk)
    (hwk : s.wk = (schedule s.kr).last) :
    exec .unwrap s = .next (succeeded (withDout s (decryptWith (schedule s.kr).rk c))) := by
  rw [exec_unwrap_of_valid hkey halpha, hd, withDecoded, putSchedule_self hrk hwk, complete_ok, putDout_eq_withDout]

/-- Settles O49: the string decodes to the ciphertext, which WRAP's own schedule, left in RK and WK, decrypts to DIN. -/
theorem unwrapInvertsWrap : Obligations.UnwrapInvertsWrap := by
  unfold Obligations.UnwrapInvertsWrap
  intro s hkey halpha hlegal
  have hkr : (succeeded (wrapped s)).kr = s.kr := wrapped_kr s
  have hrk : (succeeded (wrapped s)).rk = (schedule s.kr).rk := wrapped_rk s
  have hwk : (succeeded (wrapped s)).wk = (schedule s.kr).last := wrapped_wk s
  have hd : decodeString (succeeded (wrapped s)).alphabet (succeeded (wrapped s)).symLen
      (succeeded (wrapped s)).sym = .value (encryptWith (schedule s.kr).rk s.din) := by
    rw [succeeded_alphabet, wrapped_alphabet, succeeded_symLen, succeeded_sym, decodeString_wrapped hlegal]
  have hunwrap := exec_unwrap_of_scheduled (s := succeeded (wrapped s)) hkey halpha hd (by rw [hkr, hrk])
    (by rw [hkr, hwk])
  rw [hkr, decryptWith_encryptWith] at hunwrap
  exact ⟨_, _, exec_wrap_eq_wrapped hkey halpha, hunwrap, rfl⟩

/-- Settles O50: equal strings come from equal ciphertexts, and these from equal values of DIN. -/
theorem wrapIsInjective : Obligations.WrapIsInjective := by
  unfold Obligations.WrapIsInjective
  intro s n hkey halpha hlegal hne
  refine ⟨_, _, exec_wrap_eq_wrapped hkey halpha, exec_wrap_eq_wrapped (s := withDin s n) hkey halpha, ?_⟩
  by_contra hsame
  simp only [not_or, not_exists, not_and, not_not] at hsame
  obtain ⟨hlen, hsym⟩ := hsame
  have hstring : (wrapped s).string = (wrapped (withDin s n)).string := State.string_congr hlen hsym
  rw [wrapped_string, wrapped_string] at hstring
  have hcipher := encodeString_injective (alphabet_nodup_of_legal hlegal) (alphabet_length_of_legal hlegal) hstring
  exact hne (encryptWith_injective _ hcipher).symm

/-! ## A permuted table (R263) -/

/-- A permutation of the positions keeps the codes distinct. -/
theorem shuffled_nodup {perm : Nat → Nat} {alphabet : List Symbol} (hn : alphabet.Nodup)
    (hlt : ∀ i < alphabet.length, perm i < alphabet.length)
    (hinj : ∀ i < alphabet.length, ∀ j < alphabet.length, perm i = perm j → i = j) :
    (shuffled perm alphabet).Nodup := by
  refine List.Nodup.map_on (fun i hi j hj h => ?_) List.nodup_range
  have hi := List.mem_range.1 hi
  have hj := List.mem_range.1 hj
  have hidx := congrArg (idxOf alphabet) h
  rw [idxOf_getD hn (hlt i hi), idxOf_getD hn (hlt j hj)] at hidx
  exact hinj i hi j hj (Option.some.inj hidx)

/-- Settles O46: the permuted table has the same length and no repeats, so the check passes it. -/
theorem shuffledAlphabetCommits : Obligations.ShuffledAlphabetCommits := by
  unfold Obligations.ShuffledAlphabetCommits
  intro s t perm hlegal hlen hlt hinj htable
  obtain ⟨h2, h256, hn⟩ := (legalAlphabet_iff s).1 hlegal
  rw [← s.alphabet_length h256] at hlt hinj
  refine exec_alphaCommit_of_ok ((alphaCheck_eq_ok_iff t).2 ((legalAlphabet_iff t).2 ?_))
  rw [hlen, htable]
  exact ⟨h2, h256, shuffled_nodup hn hlt hinj⟩

end Sys2Proof.Machine

/-! PROOF. What the completions of all commands have in common: the codes they raise, the registers they write, and the
reset values (10_state.md R55, 20_memory.md R83, 60_exceptions.md R311). -/

namespace Sys2Proof.Machine

open Sys2Proof.Claims

/-! ## The codes a command raises (R311) -/

/-- A result that raises carries a code that the table lists for the command. -/
theorem resultOf_error_mem {i : Instr} {s : State} {e : ErrKind} {info : Word} (h : resultOf i s = .error e info) :
    e ∈ mayRaise i := by
  cases i <;> simp only [resultOf, requireKey, requireAlphabet, withDecoded] at h <;>
    (repeat' split at h) <;> cases h <;> simp [mayRaise]

/-- Settles O58: a success has the success code, and a raise one that its command's result can carry. -/
theorem commandsRaiseOnlyTheirCodes : Obligations.CommandsRaiseOnlyTheirCodes := by
  unfold Obligations.CommandsRaiseOnlyTheirCodes
  refine ⟨fun i s t h => ?_, by decide⟩
  rw [exec_eq_complete] at h
  cases h
  obtain ⟨u, -, hok⟩ | ⟨e, info, hr, hfail⟩ := complete_cases s (resultOf i s)
  · exact .inl (by rw [hok, succeeded_err])
  · exact .inr (by rw [hfail, failed_err]; exact resultOf_error_mem hr)

/-! ## The registers a command writes (R83) -/

/-- The result registers that a command which succeeds may write are in its write-set. SRST is `resultOf_srst`. -/
theorem resultOf_ok_writes {i : Instr} {s t : State} (h : resultOf i s = .ok t) (hi : i ≠ .srst) :
    (t.dout = s.dout ∨ inWriteSet i .dout = true) ∧
    (t.wk = s.wk ∨ inWriteSet i .wkHi = true ∧ inWriteSet i .wkLo = true) ∧
    (t.rk = s.rk ∨ ∀ j, inWriteSet i (.rk j) = true) ∧
    (t.symLen = s.symLen ∨ inWriteSet i .symLen = true) ∧
    (t.sym = s.sym ∨ ∀ p, inWriteSet i (.sym p) = true) := by
  cases i
  case srst => exact absurd rfl hi
  all_goals
    simp only [resultOf, requireKey, requireAlphabet, withDecoded] at h
    repeat' split at h
    all_goals cases h <;> simp [inWriteSet]

/-- A command that succeeds leaves every register outside its write-set, but STATUS and ERRINFO, as it was. -/
theorem readReg_succeeded {i : Instr} {s t : State} (h : resultOf i s = .ok t) {r : Reg} (hw : inWriteSet i r = false)
    (hstatus : r ≠ .status) (herrinfo : r ≠ .errinfo) : readReg (succeeded t) r = readReg s r := by
  by_cases hi : i = .srst
  · subst hi
    cases r with
    | id | cmd => rfl
    | status => exact absurd rfl hstatus
    | errinfo => exact absurd rfl herrinfo
    | _ => cases hw
  · obtain ⟨⟨-, hlen, hhi, hlo, hdin, halen, htable, -⟩, -⟩ := resultOf_ok_frame h hi
    obtain ⟨hdout, hwk, hrk, hslen, hsym⟩ := resultOf_ok_writes h hi
    cases r with
    | id | cmd => rfl
    | status => exact absurd rfl hstatus
    | errinfo => exact absurd rfl herrinfo
    | keylen => exact congrArg (BitVec.setWidth 64) hlen
    | keyHi => exact hhi
    | keyLo => exact hlo
    | din => exact hdin
    | alphaLen => exact congrArg (BitVec.setWidth 64) halen
    | alpha j => exact congrArg (fun table : Vector Symbol 256 => table[j].setWidth 64) htable
    | dout => exact hdout.resolve_right (by simp [hw])
    | wkHi => exact congrArg KeyReg.hiWord (hwk.resolve_right (by simp [hw]))
    | wkLo => exact congrArg KeyReg.loWord (hwk.resolve_right (by simp [hw]))
    | rk j =>
      have hsame := hrk.resolve_right fun hall => by simp [hall j] at hw
      exact congrArg (fun keys : Vector Word 32 => keys[j]) hsame
    | symLen => exact congrArg (BitVec.setWidth 64) (hslen.resolve_right (by simp [hw]))
    | sym p =>
      have hsame := hsym.resolve_right fun hall => by simp [hall p] at hw
      exact congrArg (fun codes : Vector Symbol 64 => codes[p].setWidth 64) hsame

/-- A command that raises leaves every register but STATUS and ERRINFO as it was (R314). -/
theorem readReg_failed (s : State) (e : ErrKind) (info : Word) {r : Reg} (hstatus : r ≠ .status)
    (herrinfo : r ≠ .errinfo) : readReg (failed s e info) r = readReg s r := by
  cases r with
  | status => exact absurd rfl hstatus
  | errinfo => exact absurd rfl herrinfo
  | _ => rfl

/-- Settles O59: at an unmapped address nothing is read; at a register outside the write-set a success has written none
of its fields, and a raise has written none at all. -/
theorem addressesOutsideTheWriteSetKeep : Obligations.AddressesOutsideTheWriteSetKeep := by
  unfold Obligations.AddressesOutsideTheWriteSetKeep
  intro i s t a h hw hstatus herrinfo
  rw [exec_eq_complete] at h
  cases h
  rw [readWord, readWord]
  cases hr : regAt a with
  | none => rfl
  | some r =>
    obtain rfl := addr_of_regAt hr
    have hne_status : r ≠ .status := fun heq => hstatus (heq ▸ rfl)
    have hne_errinfo : r ≠ .errinfo := fun heq => herrinfo (heq ▸ rfl)
    obtain ⟨u, hok, hc⟩ | ⟨e, info, -, hc⟩ := complete_cases s (resultOf i s)
    · rw [hc]
      exact readReg_succeeded hok (by simpa [writeSet_addr_iff] using hw) hne_status hne_errinfo
    · rw [hc]
      exact readReg_failed s e info hne_status hne_errinfo

/-! ## The reset values (R55, R300) -/

theorem defaultSymbol_toNat (i : Fin 256) : (defaultSymbol i.val).toNat =
    if i.val < 10 then 0x30 + i.val else if i.val < 36 then 0x41 + (i.val - 10)
    else if i.val < 62 then 0x61 + (i.val - 36) else 0 := by
  unfold defaultSymbol
  split
  · rw [BitVec.toNat_ofNat]; omega
  · split
    · rw [BitVec.toNat_ofNat]; omega
    · split
      · rw [BitVec.toNat_ofNat]; omega
      · rfl

/-- Settles O11: the scalar registers are as `State.reset` writes them, the tables entry by entry. -/
theorem resetValues : Obligations.ResetValues := by
  unfold Obligations.ResetValues
  refine ⟨rfl, rfl, rfl, rfl, rfl, rfl, rfl, rfl, rfl, rfl, rfl, rfl, rfl, fun i => reset_rk_getElem i, rfl, rfl, rfl,
    rfl, fun p => ?_, fun i => ?_, readWord_addr State.reset .id, ?_⟩
  · simp [State.reset]
  · rw [← defaultSymbol_toNat]
    simp [State.reset, defaultAlphabet]
  · rw [readWord_status]
    rfl

/-- No bit of STATUS after SRST depends on the state before it. -/
theorem statusWord_succeeded_resetRegs (s : State) :
    statusWord (succeeded (resetRegs s)) = statusWord (succeeded State.reset) := rfl

/-- Settles O51: the result of SRST is the reset registers, and the STATUS of those with DONE = 1 is 0x22. -/
theorem srstRestoresReset : Obligations.SrstRestoresReset := by
  unfold Obligations.SrstRestoresReset
  refine fun s => ⟨succeeded (resetRegs s), exec_eq_complete .srst s, rfl, ?_⟩
  rw [readWord_status, statusWord_succeeded_resetRegs]
  decide

end Sys2Proof.Machine
